-- ==== Sys2Proof/Word.lean ====
section
/-! DEFINITION. The widths of IPASS-FE: bytes, host addresses and bus words (spec/00_scope.md rule R9,
spec/30_encoding.md rule R59), and the byte sequences of spec/00_scope.md rule R10. -/

namespace Sys2Proof

/-- A byte: every register and every datum on the channel is one (R9). -/
abbrev Byte := BitVec 8

/-- A host address: 9 bits (R9, R45). -/
abbrev Addr := BitVec 9

/-- A host bus operation: 18 bits, W[17], ADDR[16:8], DATA[7:0] (R59). -/
abbrev BusWord := BitVec 18

/-- `sum(s)`: the sum of the bytes of s as a non-negative integer, with no truncation (R10). -/
def byteSum : List Byte → Nat
  | [] => 0
  | b :: bs => b.toNat + byteSum bs

end Sys2Proof
end

