-- ==== Sys2Proof/Config.lean ====
section
/-! DEFINITION. What an implementation of IPASS-FE fixes (spec/00_scope.md rules R7 and R8) and the values
the spec leaves unspecified, each an opaque constant that no proof can look into. -/

namespace Sys2Proof

/-- IN_MAX: the largest opcode-and-payload input to ENCODE and EXCHANGE (R7). -/
def Config.inMax : Nat := 59

/-- The size of IN_BUF, and so the largest input of CHECKSUM (R24, R37). -/
def Config.inBufSize : Nat := 64

/-- ACK_READ_LEN: the bytes requested for the acknowledgement (R7). -/
def Config.ackReadLen : Nat := 7

/-- RX_MAX: the bytes requested for the response (R7). -/
def Config.rxMax : Nat := 64

/-- DIR_HOST: the direction marker of a command frame, host to chip (R7). -/
def Config.dirHost : Byte := 0xD4#8

/-- The open parameters of R8 that a model takes as an argument. P_TICK, the third, is informative only
(R151) and no rule's result depends on it. What State.reset takes for them: notes/assumptions/6.md and
notes/assumptions/7.md. -/
structure Params where
  /-- P_POLL_LIMIT_RESET: the reset value of POLL_LIMIT (R33, OPEN, decision D20). -/
  pollLimitReset : BitVec 16
  /-- P_NEEDS_RELEASE: the reset value of CTRL.END_TXN_EN (R35, OPEN, decision D25). -/
  needsRelease : Bool
  deriving DecidableEq, Repr

/-- The default start state of spec/95_test_vectors.md: P_POLL_LIMIT_RESET = 200 (R33's own default) and
P_NEEDS_RELEASE = 0.
DESIGN CHOICE for State.reset alone, unsafe there: notes/assumptions/6.md, notes/assumptions/7.md. -/
def Params.vectors : Params := { pollLimitReset := 200#16, needsRelease := false }

/-- The byte a RD of a V register returns while BUSY = 1: "an unspecified byte (`any`), drawn independently
at each read" (R17). The argument is the number of draws made before.
DESIGN CHOICE (form), safe: notes/assumptions/4.md. -/
opaque Config.anyByte : Nat → Byte

/-- The contents of a buffer byte after reset: "a draw made at reset, one per byte, under no law" (R42). The
arguments are the index of the reset and the byte's host address.
DESIGN CHOICE (form), safe: notes/assumptions/5.md. -/
opaque Config.resetByte : Nat → Nat → Byte

end Sys2Proof
end

