-- ==== Sys2Proof/Machine/State.lean ====
section
/-! DEFINITION. The state of IPASS-FE as plain data (spec/10_state.md), the steps of its agents, the reasons a
step stops, and the state after reset (spec/70_reset_and_hazards.md rule R140). -/

namespace Sys2Proof.Machine

/-- The sequencer's phases (R22). Values 0xA to 0xF are never held. -/
inductive Phase where
  | idle | wake | send | release1 | wait1 | settle | readAck | wait2 | readResp | release2
  deriving DecidableEq, Repr

/-- The completion codes (R61). "No other value is ever held" (R21). -/
inductive Completion where
  | ok | timeout | invalidAck | badLength | badCmd
  deriving DecidableEq, Repr

/-- The outstanding transport request (R43, R123). Recv(n) has n = 7 or n = 64. -/
inductive Req where
  | none
  | wake
  | send (frame : List Byte)
  | release
  | recv7
  | recv64
  deriving DecidableEq, Repr

/-- The fields of ACK_RESULT (R28). -/
structure AckResult where
  matched : Bool
  long : Bool
  short : Bool
  deriving DecidableEq, Repr

/-- The fields of RESP_FLAGS (R30). -/
structure RespFlags where
  success : Bool
  layoutB : Bool
  trunc : Bool
  lcsOk : Bool
  dcsOk : Bool
  deriving DecidableEq, Repr

/-- ACK_RESULT = 0x00. -/
def AckResult.clear : AckResult := ⟨false, false, false⟩

/-- RESP_FLAGS = 0x00. -/
def RespFlags.clear : RespFlags := ⟨false, false, false, false, false⟩

/-- One step of one agent (R12, R44). `State.inputs` lists the steps to come in their total order (R54).
DESIGN CHOICE, safe: notes/assumptions/1.md. -/
inductive Input where
  /-- The host: one bus operation (R59). -/
  | bus (w : BusWord)
  /-- The host: WAITIDLE, `RD 0x001` repeated until bit 0 of the byte read is 0 (R68, R105).
  DEDUCED, safe: notes/assumptions/12.md. -/
  | waitIdle
  /-- The sequencer: one ready sample, with the level of ready_in it draws (R87). -/
  | sample (ready : Bool)
  /-- The time base: one tick (R88, R89). -/
  | tick
  /-- The channel: the completion of Wake (R83). -/
  | doneWake
  /-- The channel: the completion of Send (R84). -/
  | doneSend
  /-- The channel: the completion of Release (R85, R92). -/
  | doneRelease
  /-- The channel: the completion of Recv with the bytes delivered (R90, R91). -/
  | doneRecv (bytes : List Byte)
  /-- Reset (R141). -/
  | reset
  deriving DecidableEq, Repr

/-- The state: every register of the map (R16), the hidden state (R43), and the model's own fields last. -/
structure State where
  /-- CMD (R19). -/
  cmd : Byte
  /-- STATUS.BUSY (R20). -/
  busy : Bool
  /-- STATUS.DONE (R20). -/
  done : Bool
  /-- STATUS.REJ (R20). -/
  rej : Bool
  /-- CODE (R21). -/
  code : Completion
  /-- PHASE (R22). -/
  phase : Phase
  /-- END_PHASE (R23). -/
  endPhase : Phase
  /-- IN_LEN (R24). -/
  inLen : Byte
  /-- CSUM (R25). -/
  csum : Byte
  /-- TX_LEN (R26). -/
  txLen : Byte
  /-- ACK_COUNT (R27). -/
  ackCount : Byte
  /-- ACK_RESULT (R28). -/
  ackResult : AckResult
  /-- RX_COUNT (R29). -/
  rxCount : Byte
  /-- RESP_FLAGS (R30). -/
  respFlags : RespFlags
  /-- RESP_LEN_HI[0] and RESP_LEN_LO, the 9-bit declared length (R31). -/
  respLen : BitVec 9
  /-- RESP_AVAIL (R32). -/
  respAvail : Byte
  /-- POLL_LIMIT_HI and POLL_LIMIT_LO (R33). -/
  pollLimit : BitVec 16
  /-- SETTLE_TICKS (R34). -/
  settleTicks : Byte
  /-- CTRL.END_TXN_EN (R35). -/
  endTxnEn : Bool
  /-- POLL_COUNT_HI and POLL_COUNT_LO (R36). -/
  pollCount : BitVec 16
  /-- IN_BUF[0..63] (R37). -/
  inBuf : Vector Byte 64
  /-- TX_BUF[0..64] (R38). -/
  txBuf : Vector Byte 65
  /-- ACK_BUF[0..6] (R39). -/
  ackBuf : Vector Byte 7
  /-- RX_BUF[0..63] (R40). -/
  rxBuf : Vector Byte 64
  /-- PAYLOAD[0..61] (R41). -/
  payload : Vector Byte 62
  /-- REQ (R43). -/
  req : Req
  /-- SAMPLE_DUE (R43). -/
  sampleDue : Bool
  /-- SETTLE_CNT (R43). -/
  settleCnt : Byte
  /-- The model's own: the steps the agents take next, oldest first (R12, R54).
  DESIGN CHOICE, safe: notes/assumptions/1.md. -/
  inputs : List Input
  /-- The model's own: the byte the last RD returned to the host (R100).
  DESIGN CHOICE, unsafe at reset: notes/assumptions/3.md. -/
  rdData : Byte
  /-- The model's own: how many free bytes V-register reads have drawn (R17).
  DESIGN CHOICE, safe: notes/assumptions/4.md. -/
  draws : Nat
  /-- The model's own: the index of the last reset (R42).
  DESIGN CHOICE, safe: notes/assumptions/5.md. -/
  epoch : Nat
  /-- The model's own: the open parameters of this instance (R8).
  DESIGN CHOICE, safe: notes/assumptions/6.md, notes/assumptions/7.md. -/
  params : Params
  deriving DecidableEq, Repr

/-- Why the machine stops with a fault: never. "All operations return a status value; no exceptions or process
aborts" (R126). -/
inductive Fault where
  deriving DecidableEq, Repr

/-- Why a step has no meaning. -/
inductive Refusal where
  /-- exec's arm of an instruction that has no meaning yet; no arm raises it. Safe. -/
  | notModelled (mnemonic : String)
  /-- The step of a bus word the decoder rejects: a RD with DATA other than 0x00 (R67, I6). Safe. -/
  | illegalWord
  /-- A channel completion whose kind does not match REQ, or given while REQ = None (R123, I7). Safe. -/
  | completionMismatch
  /-- A Recv(n) completion with more than n bytes (R123, I7). Safe. -/
  | recvTooLong
  /-- The meaning of a chip opcode in a state whose outstanding Send holds another frame: that instruction is
  not on the channel, so there is no completion of it (R123). Safe. -/
  | frameNotOnChannel
  deriving DecidableEq, Repr

/-- The state reset leaves (R140), for given parameters (R8), index of the reset and the draw of each buffer
byte (R42), which is given the byte's host address. The model's own fields other than epoch and params are
those of a machine no agent has acted on. -/
def State.resetWith (p : Params) (epoch : Nat) (draw : Nat → Byte) : State where
  cmd := 0#8
  busy := false
  done := false
  rej := false
  code := .ok
  phase := .idle
  endPhase := .idle
  inLen := 0#8
  csum := 0#8
  txLen := 0#8
  ackCount := 0#8
  ackResult := .clear
  rxCount := 0#8
  respFlags := .clear
  respLen := 0#9
  respAvail := 0#8
  pollLimit := p.pollLimitReset
  settleTicks := 1#8
  endTxnEn := p.needsRelease
  pollCount := 0#16
  inBuf := Vector.ofFn fun i => draw (0x020 + i.val)
  txBuf := Vector.ofFn fun i => draw (0x060 + i.val)
  ackBuf := Vector.ofFn fun i => draw (0x0A8 + i.val)
  rxBuf := Vector.ofFn fun i => draw (0x0B0 + i.val)
  payload := Vector.ofFn fun i => draw (0x100 + i.val)
  req := .none
  sampleDue := false
  settleCnt := 0#8
  inputs := []
  rdData := 0#8
  draws := 0
  epoch := epoch
  params := p

/-- The machine right after reset: the spec's default parameters and free buffer bytes. -/
def State.reset : State := State.resetWith Params.vectors 0 (Config.resetByte 0)

end Sys2Proof.Machine
end

