-- ==== Sys2Proof/Machine/Flags.lean ====
section
/-! DEFINITION. Flags and codes: how each status field is laid out in the byte a host reads, and how the flags
of a decoded response are computed (spec/10_state.md rules R20 to R23, R28, R30; spec/30_encoding.md rule R61;
spec/40_codec.md rules R69 and R73). -/

namespace Sys2Proof.Machine

/-- A flag at bit k of a byte, the other bits 0. -/
def flagBit (b : Bool) (k : Nat) : Byte := if b then 1#8 <<< k else 0#8

/-- The phase codes (R22), bits [7:4] 0. -/
def Phase.toByte : Phase → Byte
  | .idle => 0x00#8
  | .wake => 0x01#8
  | .send => 0x02#8
  | .release1 => 0x03#8
  | .wait1 => 0x04#8
  | .settle => 0x05#8
  | .readAck => 0x06#8
  | .wait2 => 0x07#8
  | .readResp => 0x08#8
  | .release2 => 0x09#8

/-- The completion codes (R61). -/
def Completion.toByte : Completion → Byte
  | .ok => 0x00#8
  | .timeout => 0x01#8
  | .invalidAck => 0x02#8
  | .badLength => 0x03#8
  | .badCmd => 0x04#8

/-- ACK_RESULT: MATCH[0], LONG[1], SHORT[2], bits [7:3] 0 (R28). -/
def AckResult.toByte (a : AckResult) : Byte :=
  flagBit a.matched 0 ||| flagBit a.long 1 ||| flagBit a.short 2

/-- RESP_FLAGS: SUCCESS[0], LAYOUT_B[1], TRUNC[2], LCS_OK[3], DCS_OK[4], bits [7:5] 0 (R30). -/
def RespFlags.toByte (f : RespFlags) : Byte :=
  flagBit f.success 0 ||| flagBit f.layoutB 1 ||| flagBit f.trunc 2 ||| flagBit f.lcsOk 3 ||| flagBit f.dcsOk 4

/-- STATUS: BUSY[0], DONE[1], REJ[2], bits [7:3] 0 (R20). -/
def State.statusByte (s : State) : Byte :=
  flagBit s.busy 0 ||| flagBit s.done 1 ||| flagBit s.rej 2

/-- Byte i of a received sequence. No rule reads at or beyond the received count (D14); beyond the buffer the
function answers 0x00, in states no run reaches.
DESIGN CHOICE, safe: notes/assumptions/13.md. -/
def rawAt (raw : Vector Byte 64) (i : Nat) : Byte := raw.toList.getD i 0x00#8

/-- LEN9, the declared length: zext_9(raw[s]) + 4 (R65, R73). -/
def declaredLength (raw : Vector Byte 64) (start : Nat) : BitVec 9 :=
  (rawAt raw start).setWidth 9 + 4#9

/-- TRUNC: the received bytes end before the payload window does (R30, R73). -/
def truncFlag (raw : Vector Byte 64) (c start : Nat) : Bool :=
  decide (c - start < (declaredLength raw start).toNat)

/-- LCS_OK: the length checksum was received and verifies (R30, R73). -/
def lcsFlag (raw : Vector Byte 64) (c start : Nat) : Bool :=
  decide (start + 1 < c) &&
    ((rawAt raw start).toNat + (rawAt raw (start + 1)).toNat) % 256 == 0

/-- The bytes raw[a..b): those at indices a to b - 1 (R10). -/
def rawSlice (raw : Vector Byte 64) (a b : Nat) : List Byte := (raw.toList.drop a).take (b - a)

/-- DCS_OK: the payload checksum was received and verifies: raw[s+2 .. s+3+L) sums to 0 mod 256 (R30, R73). -/
def dcsFlag (raw : Vector Byte 64) (c start : Nat) : Bool :=
  decide (start + 2 + (rawAt raw start).toNat < c) &&
    byteSum (rawSlice raw (start + 2) (start + 3 + (rawAt raw start).toNat)) % 256 == 0

end Sys2Proof.Machine
end

