-- ==== Sys2Proof/Machine/Frame.lean ====
section
/-! DEFINITION. The pure functions of FrameCodec and AckMatcher: Checksum, EncodeFrame, DecodeFrame
(spec/40_codec.md rules R69, R71, R73) and AckMatch (spec/41_ack.md rule R78). -/

namespace Sys2Proof.Machine

/-- Checksum(s) = (256 - (sum(s) mod 256)) mod 256 (R69). -/
def checksum (s : List Byte) : Byte := BitVec.ofNat 8 ((256 - byteSum s % 256) % 256)

/-- EncodeFrame(in, n) on p = in[0..n): preamble 0x00 0xFF, LEN = n + 1, LCS, 0xD4, the payload verbatim, DCS
(R62, R71). -/
def encodeFrame (p : List Byte) : List Byte :=
  [0x00#8, 0xFF#8, BitVec.ofNat 8 (p.length + 1), checksum [BitVec.ofNat 8 (p.length + 1)], Config.dirHost] ++ p
    ++ [checksum (Config.dirHost :: p)]

/-- T_long (R63, R78). -/
def ackLong : List Byte := [0x01#8, 0x00#8, 0x00#8, 0xFF#8, 0x00#8, 0xFF#8, 0x00#8]

/-- T_short (R63, R78). -/
def ackShort : List Byte := [0x00#8, 0x00#8, 0xFF#8, 0x00#8, 0xFF#8, 0x00#8]

/-- AckMatch(buf, c) (R78). -/
def ackMatch (buf : Vector Byte 7) (c : Nat) : AckResult :=
  if c = 0 then { matched := false, long := false, short := true }
  else
    let long := buf[0] != 0x00#8
    let template := if long then ackLong else ackShort
    if c < template.length then { matched := false, long := long, short := true }
    else { matched := buf.toList.take template.length == template, long := long, short := false }

/-- What DecodeFrame returns (R73). -/
structure Response where
  flags : RespFlags
  len9 : BitVec 9
  avail : Byte
  payload : List Byte
  deriving DecidableEq, Repr

/-- The layout of a received response: its start offset and LAYOUT_B, or none (R64, R73). -/
def responseLayout (raw : Vector Byte 64) (c : Nat) : Option (Nat × Bool) :=
  if 2 ≤ c ∧ rawAt raw 0 = 0x00#8 ∧ rawAt raw 1 = 0xFF#8 then some (2, false)
  else if 2 ≤ c ∧ rawAt raw 0 = 0x01#8 ∧ rawAt raw 1 = 0x00#8 then some (4, true)
  else none

/-- avail = min(len9, c - s) (R73). -/
def availBytes (raw : Vector Byte 64) (c start : Nat) : Nat := min (declaredLength raw start).toNat (c - start)

/-- The response of a recognised layout whose length byte was received (R73). The window starts at the length
byte (C1) and no checksum decides success (C3). -/
def decodeWindow (raw : Vector Byte 64) (c start : Nat) (layoutB : Bool) : Response where
  flags :=
    { success := true, layoutB := layoutB, trunc := truncFlag raw c start, lcsOk := lcsFlag raw c start,
      dcsOk := dcsFlag raw c start }
  len9 := declaredLength raw start
  avail := BitVec.ofNat 8 (availBytes raw c start)
  payload := rawSlice raw start (start + availBytes raw c start)

/-- DecodeFrame(raw, c) (R73). -/
def decodeFrame (raw : Vector Byte 64) (c : Nat) : Response :=
  match responseLayout raw c with
  | none => { flags := .clear, len9 := 0#9, avail := 0#8, payload := [] }
  | some (start, layoutB) =>
    if c ≤ start then { flags := { RespFlags.clear with trunc := true }, len9 := 0#9, avail := 0#8, payload := [] }
    else decodeWindow raw c start layoutB

end Sys2Proof.Machine
end

