-- ==== Sys2Proof/Machine/Operands.lean ====
section
/-! DEFINITION. The operands of the host's operations: the register map (spec/10_state.md rule R16), which
addresses are in the V set, writable, or neither (R17, R18), the byte each register reads as, and the byte
sequences commands take from the buffers (spec/20_memory.md rule R57). -/

namespace Sys2Proof.Machine

/-- What a host address names (R16). -/
inductive Reg where
  | cmd | status | code | phase | endPhase | inLen | csum | txLen | ackCount | ackResult | rxCount | respFlags
  | respLenLo | respLenHi | respAvail | pollLimitLo | pollLimitHi | settleTicks | ctrl | pollCountLo | pollCountHi
  | inBuf (i : Fin 64)
  | txBuf (i : Fin 65)
  | ackBuf (i : Fin 7)
  | rxBuf (i : Fin 64)
  | payload (i : Fin 62)
  | reserved
  deriving DecidableEq, Repr

/-- The registers below 0x020 (R16). -/
def lowReg : Nat → Reg
  | 0x00 => .cmd
  | 0x01 => .status
  | 0x02 => .code
  | 0x03 => .phase
  | 0x04 => .endPhase
  | 0x05 => .inLen
  | 0x06 => .csum
  | 0x07 => .txLen
  | 0x08 => .ackCount
  | 0x09 => .ackResult
  | 0x0A => .rxCount
  | 0x0B => .respFlags
  | 0x0C => .respLenLo
  | 0x0D => .respLenHi
  | 0x0E => .respAvail
  | 0x10 => .pollLimitLo
  | 0x11 => .pollLimitHi
  | 0x12 => .settleTicks
  | 0x13 => .ctrl
  | 0x14 => .pollCountLo
  | 0x15 => .pollCountHi
  | _ => .reserved

/-- The register map: byte i of a buffer stands at the buffer's base address plus i (R16). -/
def regAt (a : Addr) : Reg :=
  if a.toNat < 0x020 then lowReg a.toNat
  else if h : a.toNat - 0x020 < 64 then .inBuf ⟨a.toNat - 0x020, h⟩
  else if h : a.toNat - 0x060 < 65 then .txBuf ⟨a.toNat - 0x060, h⟩
  else if a.toNat < 0x0A8 then .reserved
  else if h : a.toNat - 0x0A8 < 7 then .ackBuf ⟨a.toNat - 0x0A8, h⟩
  else if a.toNat < 0x0B0 then .reserved
  else if h : a.toNat - 0x0B0 < 64 then .rxBuf ⟨a.toNat - 0x0B0, h⟩
  else if a.toNat < 0x100 then .reserved
  else if h : a.toNat - 0x100 < 62 then .payload ⟨a.toNat - 0x100, h⟩
  else .reserved

/-- The V set: the registers that read as `any` while BUSY = 1 (R17). -/
def Reg.volatile : Reg → Bool
  | .ackCount | .ackResult | .ackBuf _ | .rxCount | .rxBuf _ => true
  | .respFlags | .respLenLo | .respLenHi | .respAvail | .payload _ => true
  | _ => false

/-- The host-writable registers (R18). -/
def Reg.writable : Reg → Bool
  | .cmd | .inLen | .ackCount | .rxCount | .pollLimitLo | .pollLimitHi | .settleTicks | .ctrl => true
  | .inBuf _ | .ackBuf _ | .rxBuf _ => true
  | _ => false

/-- The byte a register holds, its reserved bits 0, and 0x00 for a reserved address (R16, R46, R50). -/
def State.regByte (s : State) : Reg → Byte
  | .cmd => s.cmd
  | .status => s.statusByte
  | .code => s.code.toByte
  | .phase => s.phase.toByte
  | .endPhase => s.endPhase.toByte
  | .inLen => s.inLen
  | .csum => s.csum
  | .txLen => s.txLen
  | .ackCount => s.ackCount
  | .ackResult => s.ackResult.toByte
  | .rxCount => s.rxCount
  | .respFlags => s.respFlags.toByte
  | .respLenLo => s.respLen.extractLsb' 0 8
  | .respLenHi => (s.respLen.extractLsb' 8 1).setWidth 8
  | .respAvail => s.respAvail
  | .pollLimitLo => s.pollLimit.extractLsb' 0 8
  | .pollLimitHi => s.pollLimit.extractLsb' 8 8
  | .settleTicks => s.settleTicks
  | .ctrl => flagBit s.endTxnEn 0
  | .pollCountLo => s.pollCount.extractLsb' 0 8
  | .pollCountHi => s.pollCount.extractLsb' 8 8
  | .inBuf i => s.inBuf[i]
  | .txBuf i => s.txBuf[i]
  | .ackBuf i => s.ackBuf[i]
  | .rxBuf i => s.rxBuf[i]
  | .payload i => s.payload[i]
  | .reserved => 0x00#8

/-- The byte the register at a host address holds: the model's read of one byte (R16, R100). -/
def State.peek (s : State) (a : Addr) : Byte := s.regByte (regAt a)

/-- IN_BUF[0..n) for n = IN_LEN: the operand of CHECKSUM, ENCODE and EXCHANGE (R57). -/
def State.inBytes (s : State) : List Byte := s.inBuf.toList.take s.inLen.toNat

/-- TX_BUF[0..TX_LEN): the frame a Send request carries (R43, R49). -/
def State.txFrame (s : State) : List Byte := s.txBuf.toList.take s.txLen.toNat

/-- IN_LEN is a legal length for ENCODE and EXCHANGE: 1..59 (R24, R76, R82). -/
def State.frameLengthOk (s : State) : Bool := decide (1 ≤ s.inLen.toNat) && decide (s.inLen.toNat ≤ Config.inMax)

/-- IN_LEN is a legal length for CHECKSUM: 0..64 (R24, R75). -/
def State.checksumLengthOk (s : State) : Bool := decide (s.inLen.toNat ≤ Config.inBufSize)

/-- max(POLL_LIMIT, 1): the samples of one bounded wait; a stored 0 is used as 1 (R33, R87). -/
def State.waitLimit (s : State) : Nat := max s.pollLimit.toNat 1

/-- min(v, m) of a byte: what a write of ACK_COUNT (m = 7) or RX_COUNT (m = 64) stores (R27, R29). -/
def clampByte (v : Byte) (m : Nat) : Byte := BitVec.ofNat 8 (min v.toNat m)

/-- A buffer after bs[i] is stored at index i, for each i below the length of bs; the bytes beyond keep their
contents (R38 to R41). -/
def overlay {n : Nat} (v : Vector Byte n) (bs : List Byte) : Vector Byte n :=
  Vector.ofFn fun i => bs.getD i.val v[i]

end Sys2Proof.Machine
end

