-- ==== Sys2Proof/Machine/Ops.lean ====
section
/-! DEFINITION. The named operations over the state that the meanings share: finishing a command, which is
IPASS-FE's "trap entry" (spec/60_exceptions.md rule R130), accepting one, the phase entries of
spec/42_sequencer.md, the buffer stores, the host's reads and writes, and reset. -/

namespace Sys2Proof.Machine

/-- What a meaning answers. -/
abbrev Answer := Host.Outcome State Fault Refusal

/-- finish(code): ends the current command (R93). Every error exit goes through it: CODE is the cause, END_PHASE
the phase that failed, and nothing an earlier phase wrote is rolled back (R130). -/
def finish (c : Completion) (s : State) : State :=
  { s with
    code := c
    endPhase := s.phase
    phase := .idle
    busy := false
    done := true
    req := .none
    sampleDue := false
    settleCnt := 0#8 }

/-- The first part of accept(v): CMD takes the byte, DONE, REJ and CODE are cleared (R101). There is no
return-from-trap operation; this is what ends the report of the last finish (R131). -/
def beginCommand (v : Byte) (s : State) : State :=
  { s with cmd := v, done := false, rej := false, code := .ok }

/-- A host write dropped while BUSY = 1: it sets REJ and changes nothing else (R18). -/
def rejectWrite (s : State) : State := { s with rej := true }

/-- A host write of the command byte v to CMD, which runs a command if accepted (R101). -/
def hostCommand (v : Byte) (run : State → State) (s : State) : Answer :=
  .next (if s.busy then rejectWrite s else run (beginCommand v s))

/-- `phase <- P; issue Req` (R11, R123). -/
def enterIssue (p : Phase) (r : Req) (s : State) : State := { s with phase := p, req := r }

/-- enter_wait(P) (R86). -/
def enterWait (p : Phase) (s : State) : State :=
  { s with phase := p, req := .none, pollCount := 0#16, sampleDue := true }

/-- enter_read_ack() (R89). -/
def enterReadAck (s : State) : State := enterIssue .readAck .recv7 s

/-- `phase <- SETTLE; SETTLE_CNT <- 0`, the first line of enter_settle() (R89). REQ stays None, as it is in
WAIT1. -/
def startSettle (s : State) : State := { s with phase := .settle, settleCnt := 0#8 }

/-- enter_settle() (R89). -/
def enterSettle (s : State) : State :=
  if s.settleTicks = 0#8 then enterReadAck (startSettle s) else startSettle s

/-- EncodeFrame of IN_BUF[0..IN_LEN) into TX_BUF, with TX_LEN its length (R76, R82). -/
def storeFrame (s : State) : State :=
  { s with
    txBuf := overlay s.txBuf (encodeFrame s.inBytes)
    txLen := BitVec.ofNat 8 (encodeFrame s.inBytes).length }

/-- What EXCHANGE acceptance clears (R82). -/
def clearResults (s : State) : State :=
  { s with
    ackCount := 0#8
    ackResult := .clear
    rxCount := 0#8
    respFlags := .clear
    respLen := 0#9
    respAvail := 0#8
    pollCount := 0#16 }

/-- `STATUS.BUSY <- 1` (R82). -/
def setBusy (s : State) : State := { s with busy := true }

/-- ACK_RESULT takes an AckMatch result (R80, R90). -/
def setAckResult (a : AckResult) (s : State) : State := { s with ackResult := a }

/-- READ_ACK's store: d[i] at ACK_BUF[i], and ACK_COUNT = m (R90). -/
def storeAck (d : List Byte) (s : State) : State :=
  { s with ackBuf := overlay s.ackBuf d, ackCount := BitVec.ofNat 8 d.length }

/-- READ_RESP's store: d[i] at RX_BUF[i], and RX_COUNT = m (R91). -/
def storeRx (d : List Byte) (s : State) : State :=
  { s with rxBuf := overlay s.rxBuf d, rxCount := BitVec.ofNat 8 d.length }

/-- WriteResp(r) (R74). -/
def writeResp (r : Response) (s : State) : State :=
  { s with
    respFlags := r.flags
    respLen := r.len9
    respAvail := r.avail
    payload := overlay s.payload r.payload }

/-- CSUM takes a checksum (R75). -/
def setCsum (v : Byte) (s : State) : State := { s with csum := v }

/-- The step of the sequencer counts its sample (R87). -/
def countSample (s : State) : State := { s with pollCount := s.pollCount + 1#16 }

/-- SAMPLE_DUE takes a value (R87, R88). -/
def setSampleDue (b : Bool) (s : State) : State := { s with sampleDue := b }

/-- SETTLE counts a tick (R89). -/
def countSettle (s : State) : State := { s with settleCnt := s.settleCnt + 1#8 }

/-- A RD's byte goes to the host (R100). -/
def giveHost (v : Byte) (s : State) : State := { s with rdData := v }

/-- RD of a V register while BUSY = 1: a free byte goes to the host, and the next such read draws another
(R17).
DESIGN CHOICE (form), safe: notes/assumptions/4.md. -/
def giveHostAny (s : State) : State := { s with rdData := Config.anyByte s.draws, draws := s.draws + 1 }

/-- A plain register write while BUSY = 0 (R101): counts clamp, reserved bits of CTRL are ignored, and every
other writable register takes the byte. A register the host cannot write stays, and so does CMD, whose write is
a command. -/
def writeReg (r : Reg) (v : Byte) (s : State) : State :=
  match r with
  | .inLen => { s with inLen := v }
  | .ackCount => { s with ackCount := clampByte v 7 }
  | .rxCount => { s with rxCount := clampByte v 64 }
  | .pollLimitLo => { s with pollLimit := (s.pollLimit &&& 0xFF00#16) ||| v.setWidth 16 }
  | .pollLimitHi => { s with pollLimit := (s.pollLimit &&& 0x00FF#16) ||| (v.setWidth 16 <<< 8) }
  | .settleTicks => { s with settleTicks := v }
  | .ctrl => { s with endTxnEn := v.getLsbD 0 }
  | .inBuf i => { s with inBuf := s.inBuf.set i v }
  | .ackBuf i => { s with ackBuf := s.ackBuf.set i v }
  | .rxBuf i => { s with rxBuf := s.rxBuf.set i v }
  | _ => s

/-- Reset as an event (R140, R141): every register and the hidden state take their reset values, the buffer
bytes are drawn anew (R42), and what stands outside the block stays: the agents' coming steps, the byte the host
read last, the draws made.
DESIGN CHOICE, safe: notes/assumptions/14.md. -/
def resetNow (s : State) : State :=
  { State.resetWith s.params (s.epoch + 1) (Config.resetByte (s.epoch + 1)) with
    inputs := s.inputs
    rdData := s.rdData
    draws := s.draws }

end Sys2Proof.Machine
end

