-- ==== Sys2Proof/Machine/Codec.lean ====
section
/-! DEFINITION. CHECKSUM, ENCODE and DECODE (spec/40_codec.md rules R75, R76, R77). -/

namespace Sys2Proof.Machine

/-- CHECKSUM once accepted (R75). -/
def runChecksum (s : State) : State :=
  if s.checksumLengthOk then finish .ok (setCsum (checksum s.inBytes) s) else finish .badLength s

/-- ENCODE once accepted (R76). -/
def runEncode (s : State) : State :=
  if s.frameLengthOk then finish .ok (storeFrame s) else finish .badLength s

/-- DECODE once accepted: always OK (R77, C6). -/
def runDecode (s : State) : State :=
  finish .ok (writeResp (decodeFrame s.rxBuf s.rxCount.toNat) s)

/-- CHECKSUM: WR 0x000, 0x01 (R75). -/
def execChecksum (s : State) : Answer := hostCommand 0x01#8 runChecksum s

/-- ENCODE: WR 0x000, 0x02 (R76). -/
def execEncode (s : State) : Answer := hostCommand 0x02#8 runEncode s

/-- DECODE: WR 0x000, 0x03 (R77). -/
def execDecode (s : State) : Answer := hostCommand 0x03#8 runDecode s

end Sys2Proof.Machine
end

