-- ==== Sys2Proof/Machine/Ack.lean ====
section
/-! DEFINITION. ACKMATCH (spec/41_ack.md rule R80). -/

namespace Sys2Proof.Machine

/-- ACK_RESULT <- AckMatch(ACK_BUF, ACK_COUNT), the part ACKMATCH and READ_ACK share (R80, R90). -/
def matchAck (s : State) : State := setAckResult (ackMatch s.ackBuf s.ackCount.toNat) s

/-- ACKMATCH once accepted (R80). -/
def runAckmatch (s : State) : State :=
  finish (if (matchAck s).ackResult.matched then .ok else .invalidAck) (matchAck s)

/-- ACKMATCH: WR 0x000, 0x04 (R80). -/
def execAckmatch (s : State) : Answer := hostCommand 0x04#8 runAckmatch s

end Sys2Proof.Machine
end

