-- ==== Sys2Proof/Machine/Sequencer.lean ====
section
/-! DEFINITION. EXCHANGE and the phase machine it runs: the completions of transport requests, the ready sample
and the tick (spec/42_sequencer.md rules R82 to R94; spec/60_exceptions.md rule R123). -/

namespace Sys2Proof.Machine

/-- EXCHANGE once accepted (R82). -/
def runExchange (s : State) : State :=
  if s.frameLengthOk then enterIssue .wake .wake (setBusy (clearResults (storeFrame s))) else finish .badLength s

/-- EXCHANGE: WR 0x000, 0x05 (R82). -/
def execExchange (s : State) : Answer := hostCommand 0x05#8 runExchange s

/-- The completion of Wake in phase WAKE (R83). A completion that does not match is refused (R123). -/
def completeWake (s : State) : Answer :=
  if s.phase = .wake ∧ s.req = .wake then .next (enterIssue .send (.send s.txFrame) s)
  else .refused .completionMismatch

/-- The effect of the completion of Send (R84). -/
def afterSend (s : State) : State :=
  if s.endTxnEn then enterIssue .release1 .release s else enterWait .wait1 s

/-- REQ is a Send (R43). -/
def Req.isSend : Req → Bool
  | .send _ => true
  | _ => false

/-- The completion of Send in phase SEND (R84). -/
def completeSend (s : State) : Answer :=
  if s.phase = .send ∧ s.req.isSend then .next (afterSend s) else .refused .completionMismatch

/-- The completion of Release in phase RELEASE1 (R85) or RELEASE2 (R92). -/
def completeRelease (s : State) : Answer :=
  if s.phase = .release1 ∧ s.req = .release then .next (enterWait .wait1 s)
  else if s.phase = .release2 ∧ s.req = .release then .next (finish .ok s)
  else .refused .completionMismatch

/-- The effect of the completion of Recv(7) (R90). -/
def afterRecvAck (d : List Byte) (s : State) : State :=
  let t := matchAck (storeAck d s)
  if t.ackResult.matched then enterWait .wait2 t else finish .invalidAck t

/-- The effect of the completion of Recv(64) (R91). -/
def afterRecvResp (d : List Byte) (s : State) : State :=
  let t := storeRx d s
  let u := writeResp (decodeFrame t.rxBuf t.rxCount.toNat) t
  if u.endTxnEn then enterIssue .release2 .release u else finish .ok u

/-- The completion of Recv(7) in READ_ACK or of Recv(64) in READ_RESP, with at most n bytes (R90, R91, R123). -/
def completeRecv (d : List Byte) (s : State) : Answer :=
  if s.phase = .readAck ∧ s.req = .recv7 then
    if d.length ≤ Config.ackReadLen then .next (afterRecvAck d s) else .refused .recvTooLong
  else if s.phase = .readResp ∧ s.req = .recv64 then
    if d.length ≤ Config.rxMax then .next (afterRecvResp d s) else .refused .recvTooLong
  else .refused .completionMismatch

/-- The sample that drew 1: WAIT1 goes on to SETTLE, WAIT2 to READ_RESP (R87). -/
def sampleReady (s : State) : State :=
  let t := setSampleDue false (countSample s)
  if s.phase = .wait1 then enterSettle t else enterIssue .readResp .recv64 t

/-- The sample that drew 0: TIMEOUT at the limit, else wait for the next tick (R87). -/
def sampleNotReady (s : State) : State :=
  let t := countSample s
  if t.waitLimit ≤ t.pollCount.toNat then finish .timeout t else setSampleDue false t

/-- PHASE is WAIT1 or WAIT2. -/
def Phase.isWait : Phase → Bool
  | .wait1 | .wait2 => true
  | _ => false

/-- The sample step (R87). Where it is not enabled it changes no state (R94). -/
def sampleStep (ready : Bool) (s : State) : State :=
  if s.phase.isWait && s.sampleDue then
    if ready then sampleReady s else sampleNotReady s
  else s

/-- A tick counted in SETTLE (R89). -/
def settleTick (s : State) : State :=
  let t := countSettle s
  if t.settleTicks.toNat ≤ t.settleCnt.toNat then enterReadAck t else t

/-- A tick (R88, R89). Elsewhere it changes no state (R94). -/
def tickStep (s : State) : State :=
  if s.phase.isWait then setSampleDue true s
  else if s.phase = .settle then settleTick s
  else s

end Sys2Proof.Machine
end

