-- ==== Sys2Proof/Machine/HostBus.lean ====
section
/-! DEFINITION. RD, WR and BAD_CMD (spec/43_host_bus.md rules R100, R101, R102). -/

namespace Sys2Proof.Machine

/-- A reserved command code once accepted: it reads no operand and finishes with BAD_CMD (R102). -/
def runBadCmd (s : State) : State := finish .badCmd s

/-- The command a code runs: the case of accept(v) (R101). -/
def runCommand (v : Byte) : State → State :=
  if v = 0x01#8 then runChecksum
  else if v = 0x02#8 then runEncode
  else if v = 0x03#8 then runDecode
  else if v = 0x04#8 then runAckmatch
  else if v = 0x05#8 then runExchange
  else runBadCmd

/-- RD(a) (R100). -/
def execRd (a : Addr) (s : State) : Answer :=
  if s.busy && (regAt a).volatile then .next (giveHostAny s) else .next (giveHost (s.peek a) s)

/-- WR(a, v) (R101), whole: at CMD it accepts a command, although a word that does so decodes to that command. -/
def execWr (a : Addr) (v : Byte) (s : State) : Answer :=
  if regAt a = .cmd then hostCommand v (runCommand v) s
  else if (regAt a).writable then .next (if s.busy then rejectWrite s else writeReg (regAt a) v s)
  else .next s

/-- BAD_CMD: WR 0x000 with a reserved code (R102). -/
def execBadCmd (code : Byte) (s : State) : Answer := hostCommand code runBadCmd s

end Sys2Proof.Machine
end

