-- ==== Sys2Proof/Syntax.lean ====
section
/-! DEFINITION. The instructions of spec/opcode_table.json, one constructor per mnemonic (the seven BAD_CMD
rows are one instruction whose operand is the reserved code). -/

namespace Sys2Proof

/-- An instruction: a host bus operation, a command written through one, or a chip opcode or Mifare
sub-command carried in a command frame. -/
inductive Instr where
  /-- RD: read the byte register at ADDR (R100). -/
  | rd (addr : Addr)
  /-- WR: write DATA to the byte register at ADDR, other than CMD (R101). -/
  | wr (addr : Addr) (data : Byte)
  /-- CHECKSUM: command code 0x01 (R75). -/
  | checksum
  /-- ENCODE: command code 0x02 (R76). -/
  | encode
  /-- DECODE: command code 0x03 (R77). -/
  | decode
  /-- ACKMATCH: command code 0x04 (R80). -/
  | ackmatch
  /-- EXCHANGE: command code 0x05 (R82). -/
  | exchange
  /-- BAD_CMD: a reserved command code, 0x00 or 0x06 to 0xFF (R102). -/
  | badCmd (code : Byte)
  /-- GetFirmwareVersion: payload opcode 0x02 (R111). The payload the spec shows has no arguments; the block
  carries whatever follows (R109). -/
  | getFirmwareVersion (args : List Byte)
  /-- SAMConfiguration: payload opcode 0x14 (R112). -/
  | samConfiguration (args : List Byte)
  /-- RFConfiguration: payload opcode 0x32 (R113). -/
  | rfConfiguration (args : List Byte)
  /-- InListPassiveTarget: payload opcode 0x4A (R114). -/
  | inListPassiveTarget (args : List Byte)
  /-- InDataExchange: payload opcode 0x40 (R115), with arguments that hold none of the listed sub-commands. -/
  | inDataExchange (args : List Byte)
  /-- Authenticate-A: sub-command 0x60 of InDataExchange (R116). -/
  | authenticateA (tg : Byte) (args : List Byte)
  /-- Authenticate-B: sub-command 0x61 of InDataExchange (R117). -/
  | authenticateB (tg : Byte) (args : List Byte)
  /-- Read16: sub-command 0x30 of InDataExchange (R118). -/
  | read16 (tg : Byte) (args : List Byte)
  /-- Write16: sub-command 0xA0 of InDataExchange (R119). -/
  | write16 (tg : Byte) (args : List Byte)
  /-- Increment: sub-command 0xC1 of InDataExchange (R120). -/
  | increment (tg : Byte) (args : List Byte)
  /-- Decrement: sub-command 0xC0 of InDataExchange (R121). -/
  | decrement (tg : Byte) (args : List Byte)
  /-- Transfer: sub-command 0xB0 of InDataExchange (R122). -/
  | transfer (tg : Byte) (args : List Byte)
  deriving DecidableEq, Repr

end Sys2Proof
end

