-- ==== Sys2Proof/WellFormed.lean ====
section
/-! DEFINITION. Which instruction terms stand for an encoding: the checks on their operands. -/

namespace Sys2Proof

/-- The Mifare sub-commands of §6 (R116 to R122). -/
def subCommands : List Byte := [0x60#8, 0x61#8, 0x30#8, 0xA0#8, 0xC1#8, 0xC0#8, 0xB0#8]

/-- The arguments of an InDataExchange hold a listed sub-command at payload byte 2, after the opcode and Tg. -/
def hasSubCommand : List Byte → Bool
  | _ :: sub :: _ => subCommands.contains sub
  | _ => false

/-- The operand checks. A WR to CMD is a command, not a WR (R60); BAD_CMD holds a reserved code (R102); a
payload holds at most IN_MAX bytes (R7), its opcode, and for a sub-command 0x40, Tg and the sub-command, among
them; an InDataExchange with a listed sub-command is that sub-command. -/
def Instr.wf : Instr → Bool
  | .rd _ => true
  | .wr addr _ => addr != 0#9
  | .checksum => true
  | .encode => true
  | .decode => true
  | .ackmatch => true
  | .exchange => true
  | .badCmd code => code == 0#8 || decide (5 < code.toNat)
  | .getFirmwareVersion args => decide (args.length + 1 ≤ Config.inMax)
  | .samConfiguration args => decide (args.length + 1 ≤ Config.inMax)
  | .rfConfiguration args => decide (args.length + 1 ≤ Config.inMax)
  | .inListPassiveTarget args => decide (args.length + 1 ≤ Config.inMax)
  | .inDataExchange args => decide (args.length + 1 ≤ Config.inMax) && !hasSubCommand args
  | .authenticateA _ args => decide (args.length + 3 ≤ Config.inMax)
  | .authenticateB _ args => decide (args.length + 3 ≤ Config.inMax)
  | .read16 _ args => decide (args.length + 3 ≤ Config.inMax)
  | .write16 _ args => decide (args.length + 3 ≤ Config.inMax)
  | .increment _ args => decide (args.length + 3 ≤ Config.inMax)
  | .decrement _ args => decide (args.length + 3 ≤ Config.inMax)
  | .transfer _ args => decide (args.length + 3 ≤ Config.inMax)

end Sys2Proof
end

