-- ==== Sys2Proof/Decode.lean ====
section
/-! DEFINITION. The decoder, total on every bus word and every payload, rejecting by name, and the encoder
written from the same tables (spec/30_encoding.md rules R59, R60, R67; spec/44_wire_opcodes.md). -/

namespace Sys2Proof

/-- What an instruction is encoded in: a host bus word (R59), or the payload of a command frame, whose first
byte is the chip opcode (R110). -/
inductive Encoding where
  | busWord (w : BusWord)
  | payload (bytes : List Byte)
  deriving DecidableEq, Repr

/-- Why the decoder rejects. -/
inductive DecodeError where
  /-- A RD word with DATA other than 0x00 (R67). -/
  | readWithData
  /-- A payload of no bytes: there is no opcode (R110). -/
  | emptyPayload
  /-- A payload of more than IN_MAX bytes (R7). -/
  | payloadTooLong
  /-- A payload whose first byte is none of the opcodes of §6. The block frames and sends it all the same
  (R109); it only has no name. -/
  | unlistedOpcode (opcode : Byte)
  deriving DecidableEq, Repr

/-- W, bit 17: 0 = RD, 1 = WR (R59). -/
def busW (w : BusWord) : Bool := w.getLsbD 17

/-- ADDR, bits 16:8 (R59). -/
def busAddr (w : BusWord) : Addr := w.extractLsb' 8 9

/-- DATA, bits 7:0 (R59). -/
def busData (w : BusWord) : Byte := w.extractLsb' 0 8

/-- The command a DATA byte written to CMD names (R60). -/
def decodeCommand (d : Byte) : Instr :=
  if d = 0x01#8 then .checksum
  else if d = 0x02#8 then .encode
  else if d = 0x03#8 then .decode
  else if d = 0x04#8 then .ackmatch
  else if d = 0x05#8 then .exchange
  else .badCmd d

/-- A host bus word (R59, R60, R67). -/
def decodeBusWord (w : BusWord) : Except DecodeError Instr :=
  if busW w then
    if busAddr w = 0#9 then .ok (decodeCommand (busData w)) else .ok (.wr (busAddr w) (busData w))
  else if busData w = 0#8 then .ok (.rd (busAddr w))
  else .error .readWithData

/-- The payload after the opcode 0x40: Tg, then a sub-command, then its arguments. That the sub-command is
payload byte 2 is the table's "[from general knowledge, not in source]".
PRESUMED, safe: notes/assumptions/10.md. -/
def decodeDataExchange : List Byte → Instr
  | tg :: sub :: args =>
    if sub = 0x60#8 then .authenticateA tg args
    else if sub = 0x61#8 then .authenticateB tg args
    else if sub = 0x30#8 then .read16 tg args
    else if sub = 0xA0#8 then .write16 tg args
    else if sub = 0xC1#8 then .increment tg args
    else if sub = 0xC0#8 then .decrement tg args
    else if sub = 0xB0#8 then .transfer tg args
    else .inDataExchange (tg :: sub :: args)
  | args => .inDataExchange args

/-- The payload of a command frame: its first byte is the chip opcode and its arguments follow it (R110). -/
def decodePayload : List Byte → Except DecodeError Instr
  | [] => .error .emptyPayload
  | op :: args =>
    if Config.inMax < args.length + 1 then .error .payloadTooLong
    else if op = 0x02#8 then .ok (.getFirmwareVersion args)
    else if op = 0x14#8 then .ok (.samConfiguration args)
    else if op = 0x32#8 then .ok (.rfConfiguration args)
    else if op = 0x4A#8 then .ok (.inListPassiveTarget args)
    else if op = 0x40#8 then .ok (decodeDataExchange args)
    else .error (.unlistedOpcode op)

/-- The decoder. -/
def decode : Encoding → Except DecodeError Instr
  | .busWord w => decodeBusWord w
  | .payload p => decodePayload p

/-- The word of RD a: `0x00000 | ADDR << 8` (R100). -/
def readWord (a : Addr) : BusWord := 0x00000#18 ||| (a.setWidth 18 <<< 8)

/-- The word of WR a, v: `0x20000 | ADDR << 8 | DATA` (R101). -/
def writeWord (a : Addr) (v : Byte) : BusWord := 0x20000#18 ||| (a.setWidth 18 <<< 8) ||| v.setWidth 18

/-- The payload of a Mifare sub-command: 0x40, Tg, the sub-command, its arguments (R115). -/
def subPayload (sub tg : Byte) (args : List Byte) : List Byte := 0x40#8 :: tg :: sub :: args

/-- The encoder. -/
def encode : Instr → Encoding
  | .rd a => .busWord (readWord a)
  | .wr a v => .busWord (writeWord a v)
  | .checksum => .busWord (writeWord 0#9 0x01#8)
  | .encode => .busWord (writeWord 0#9 0x02#8)
  | .decode => .busWord (writeWord 0#9 0x03#8)
  | .ackmatch => .busWord (writeWord 0#9 0x04#8)
  | .exchange => .busWord (writeWord 0#9 0x05#8)
  | .badCmd code => .busWord (writeWord 0#9 code)
  | .getFirmwareVersion args => .payload (0x02#8 :: args)
  | .samConfiguration args => .payload (0x14#8 :: args)
  | .rfConfiguration args => .payload (0x32#8 :: args)
  | .inListPassiveTarget args => .payload (0x4A#8 :: args)
  | .inDataExchange args => .payload (0x40#8 :: args)
  | .authenticateA tg args => .payload (subPayload 0x60#8 tg args)
  | .authenticateB tg args => .payload (subPayload 0x61#8 tg args)
  | .read16 tg args => .payload (subPayload 0x30#8 tg args)
  | .write16 tg args => .payload (subPayload 0xA0#8 tg args)
  | .increment tg args => .payload (subPayload 0xC1#8 tg args)
  | .decrement tg args => .payload (subPayload 0xC0#8 tg args)
  | .transfer tg args => .payload (subPayload 0xB0#8 tg args)

/-- An encoding the spec gives a meaning: a bus word that is no RD with DATA (R67), a payload of 1 to IN_MAX
bytes (R7). -/
def Encoding.legal : Encoding → Bool
  | .busWord w => busW w || busData w == 0#8
  | .payload p => decide (1 ≤ p.length) && decide (p.length ≤ Config.inMax)

/-- The payload that one byte of the opcode table stands for: a wire_opcode row is the first payload byte, a
wire_subcommand row is payload byte 2, after 0x40 and the target number 0x01 (R115).
DEDUCED, safe: notes/assumptions/11.md. -/
def tablePayload (b : Byte) : List Byte :=
  if subCommands.contains b then subPayload b 0x01#8 [] else [b]

/-- The encoding a table word of nbits bits stands for. A row of at most 8 bits is a byte of a payload; a bus
row has 18 bits, given in whole bytes as 24.
DEDUCED, safe: notes/assumptions/11.md. -/
def tableEncoding (nbits w : Nat) : Encoding :=
  if nbits ≤ 8 then .payload (tablePayload (BitVec.ofNat 8 w)) else .busWord (BitVec.ofNat 18 w)

/-- The instruction the decoder reads from a table word: none where it rejects, or where w has a bit set that
the instruction does not have. -/
def decodeTableWord (nbits w : Nat) : Option Instr :=
  if 2 ^ (if nbits ≤ 8 then 8 else 18) ≤ w then none
  else match decode (tableEncoding nbits w) with
    | .ok i => some i
    | .error _ => none

end Sys2Proof
end

