-- ==== Sys2Proof/Machine/Wire.lean ====
section
/-! DEFINITION. The chip opcodes and Mifare sub-commands (spec/44_wire_opcodes.md). The block "carries every
payload byte verbatim" (R109): what it does with one of them is to send the frame that carries it and go on, the
same for every opcode. So each is the completion of the Send request whose frame carries it (R84).
DESIGN CHOICE, safe: notes/assumptions/8.md. -/

namespace Sys2Proof.Machine

/-- The frame of payload p leaves on the channel: the Send request that holds it completes (R84, R109). -/
def carryFrame (p : List Byte) (s : State) : Answer :=
  if s.req = .send (encodeFrame p) then completeSend s else .refused .frameNotOnChannel

/-- GetFirmwareVersion (R111). -/
def execGetFirmwareVersion (args : List Byte) (s : State) : Answer := carryFrame (0x02#8 :: args) s

/-- SAMConfiguration (R112). -/
def execSamConfiguration (args : List Byte) (s : State) : Answer := carryFrame (0x14#8 :: args) s

/-- RFConfiguration (R113). -/
def execRfConfiguration (args : List Byte) (s : State) : Answer := carryFrame (0x32#8 :: args) s

/-- InListPassiveTarget (R114). -/
def execInListPassiveTarget (args : List Byte) (s : State) : Answer := carryFrame (0x4A#8 :: args) s

/-- InDataExchange (R115). -/
def execInDataExchange (args : List Byte) (s : State) : Answer := carryFrame (0x40#8 :: args) s

/-- Authenticate-A (R116). -/
def execAuthenticateA (tg : Byte) (args : List Byte) (s : State) : Answer :=
  carryFrame (subPayload 0x60#8 tg args) s

/-- Authenticate-B (R117). -/
def execAuthenticateB (tg : Byte) (args : List Byte) (s : State) : Answer :=
  carryFrame (subPayload 0x61#8 tg args) s

/-- Read16 (R118). -/
def execRead16 (tg : Byte) (args : List Byte) (s : State) : Answer :=
  carryFrame (subPayload 0x30#8 tg args) s

/-- Write16 (R119). -/
def execWrite16 (tg : Byte) (args : List Byte) (s : State) : Answer :=
  carryFrame (subPayload 0xA0#8 tg args) s

/-- Increment (R120). -/
def execIncrement (tg : Byte) (args : List Byte) (s : State) : Answer :=
  carryFrame (subPayload 0xC1#8 tg args) s

/-- Decrement (R121). -/
def execDecrement (tg : Byte) (args : List Byte) (s : State) : Answer :=
  carryFrame (subPayload 0xC0#8 tg args) s

/-- Transfer (R122). -/
def execTransfer (tg : Byte) (args : List Byte) (s : State) : Answer :=
  carryFrame (subPayload 0xB0#8 tg args) s

/-- The payload of a command frame: the bytes between the direction marker and DCS, if the whole is the frame
EncodeFrame makes of them (R62). -/
def framePayload (frame : List Byte) : Option (List Byte) :=
  if encodeFrame ((frame.drop 5).dropLast) = frame then some ((frame.drop 5).dropLast) else none

/-- The arguments of Authenticate-A and Authenticate-B: block, key[6], uid[4] (R116).
PRESUMED, safe: notes/assumptions/10.md. -/
def authenticateArgs (block : Byte) (key : Vector Byte 6) (uid : Vector Byte 4) : List Byte :=
  block :: (key.toList ++ uid.toList)

/-- The arguments of Write16: block, data[16] (R119).
PRESUMED, safe: notes/assumptions/10.md. -/
def write16Args (block : Byte) (data : Vector Byte 16) : List Byte := block :: data.toList

/-- The arguments of Increment and Decrement: block, delta[0..3], least significant byte first (R120, R121).
PRESUMED (the field order), safe: notes/assumptions/10.md. -/
def deltaArgs (block : Byte) (delta : BitVec 32) : List Byte :=
  [block, delta.extractLsb' 0 8, delta.extractLsb' 8 8, delta.extractLsb' 16 8, delta.extractLsb' 24 8]

end Sys2Proof.Machine
end

