-- ==== Sys2Proof/Machine/Dispatch.lean ====
section
/-! DEFINITION. The meaning of every instruction of spec/opcode_table.json: one arm per constructor. -/

namespace Sys2Proof.Machine

/-- The meaning of an instruction. -/
def exec (i : Instr) (s : State) : Host.Outcome State Fault Refusal :=
  match i with
  | .rd addr => Sys2Proof.Machine.execRd addr s
  | .wr addr data => Sys2Proof.Machine.execWr addr data s
  | .checksum => Sys2Proof.Machine.execChecksum s
  | .encode => Sys2Proof.Machine.execEncode s
  | .decode => Sys2Proof.Machine.execDecode s
  | .ackmatch => Sys2Proof.Machine.execAckmatch s
  | .exchange => Sys2Proof.Machine.execExchange s
  | .badCmd code => Sys2Proof.Machine.execBadCmd code s
  | .getFirmwareVersion args => Sys2Proof.Machine.execGetFirmwareVersion args s
  | .samConfiguration args => Sys2Proof.Machine.execSamConfiguration args s
  | .rfConfiguration args => Sys2Proof.Machine.execRfConfiguration args s
  | .inListPassiveTarget args => Sys2Proof.Machine.execInListPassiveTarget args s
  | .inDataExchange args => Sys2Proof.Machine.execInDataExchange args s
  | .authenticateA tg args => Sys2Proof.Machine.execAuthenticateA tg args s
  | .authenticateB tg args => Sys2Proof.Machine.execAuthenticateB tg args s
  | .read16 tg args => Sys2Proof.Machine.execRead16 tg args s
  | .write16 tg args => Sys2Proof.Machine.execWrite16 tg args s
  | .increment tg args => Sys2Proof.Machine.execIncrement tg args s
  | .decrement tg args => Sys2Proof.Machine.execDecrement tg args s
  | .transfer tg args => Sys2Proof.Machine.execTransfer tg args s

end Sys2Proof.Machine
end

