-- ==== Sys2Proof/Machine/Inputs.lean ====
section
/-! DEFINITION. What one step of one agent does: a bus word is decoded and its instruction executed, a sent frame
is named and carried, and the other steps go to the sequencer (spec/00_scope.md rule R12; spec/10_state.md rule
R44). Also how a table word is placed where the next step runs it. -/

namespace Sys2Proof.Machine

/-- The step of the host: one bus word (R59). A word the decoder rejects is refused (R67). -/
def busStep (w : BusWord) (s : State) : Answer :=
  match decode (.busWord w) with
  | .ok i => exec i s
  | .error _ => .refused .illegalWord

/-- The instruction a sent frame carries, if its payload has a name of §6 (R110). -/
def sentInstr (frame : List Byte) : Option Instr :=
  match framePayload frame with
  | none => none
  | some p =>
    match decode (.payload p) with
    | .ok i => some i
    | .error _ => none

/-- The completion of Send (R84). The frame's instruction, where it has a name, is what runs; a frame with an
unlisted opcode is "framed, sent and answered in exactly the same way" (R109). -/
def sendStep (s : State) : Answer :=
  match s.req with
  | .send frame =>
    match sentInstr frame with
    | some i => exec i s
    | none => completeSend s
  | _ => completeSend s

/-- WAITIDLE: one more RD 0x001, and again unless bit 0 of the byte read is 0 (R68, R105).
DEDUCED, safe: notes/assumptions/12.md. -/
def waitIdleStep (s : State) : Answer :=
  match exec (.rd 0x001#9) s with
  | .next t => .next (if t.rdData.getLsbD 0 then { t with inputs := .waitIdle :: t.inputs } else t)
  | other => other

/-- One step of one agent (R12). -/
def inputStep (e : Input) (s : State) : Answer :=
  match e with
  | .bus w => busStep w s
  | .waitIdle => waitIdleStep s
  | .sample ready => .next (sampleStep ready s)
  | .tick => .next (tickStep s)
  | .doneWake => completeWake s
  | .doneSend => sendStep s
  | .doneRelease => completeRelease s
  | .doneRecv bytes => completeRecv bytes s
  | .reset => .next (resetNow s)

/-- The step of the machine: the agent whose turn it is acts. Where no agent acts, nothing changes: PHASE
advances only by the transitions of 42_sequencer.md (R15), and a request that never completes leaves the block
in its phase (R145).
DEDUCED, safe: notes/assumptions/2.md. -/
def agentStep (s : State) : Answer :=
  match s.inputs with
  | [] => .next s
  | e :: rest => inputStep e { s with inputs := rest }

/-- The state in which the frame of payload p is on the channel and its Send completes next: what EXCHANGE
acceptance and the completion of Wake leave (R82, R83), with the completion of Send as the next step.
DEDUCED, safe: notes/assumptions/2.md. -/
def placeFrame (p : List Byte) (s : State) : State :=
  { s with
    inBuf := overlay s.inBuf p
    inLen := BitVec.ofNat 8 p.length
    txBuf := overlay s.txBuf (encodeFrame p)
    txLen := BitVec.ofNat 8 (encodeFrame p).length
    busy := true
    done := false
    code := .ok
    phase := .send
    req := .send (encodeFrame p)
    sampleDue := false
    settleCnt := 0#8
    pollCount := 0#16
    inputs := .doneSend :: s.inputs }

/-- A table word placed where the next step runs it: a bus word as the host's next operation, a payload byte in
a frame whose Send completes next.
DEDUCED, safe: notes/assumptions/2.md. -/
def placeWord (nbits w : Nat) (s : State) : State :=
  match tableEncoding nbits w with
  | .busWord v => { s with inputs := .bus v :: s.inputs }
  | .payload p => placeFrame p s

end Sys2Proof.Machine
end

