-- ==== Sys2Proof/Machine/Step.lean ====
section
/-! DEFINITION. The step function, and the placing of a table word where it runs next. -/

namespace Sys2Proof.Machine

/-- One step: one atomic transition of one agent (R12). -/
def step (s : State) : Host.Outcome State Fault Refusal := agentStep s

/-- s with the instruction of a table word placed where the very next step runs it. -/
def State.withFetchWord (s : State) (nbits w : Nat) : State := placeWord nbits w s

end Sys2Proof.Machine
end

