-- ==== Sys2Proof/Safety.lean ====
section
/-! DEFINITION. What a sound state of IPASS-FE is, when a run is over, and the measures the claims about whole
runs use (spec/10_state.md, spec/42_sequencer.md rules R97 and R98, spec/43_host_bus.md rule R107). -/

namespace Sys2Proof.Machine

/-- The request outstanding in each phase (R81, R123): the phases that wait for ticks or samples have none. -/
def State.expectedReq (s : State) : Req :=
  match s.phase with
  | .idle => .none
  | .wake => .wake
  | .send => .send s.txFrame
  | .release1 => .release
  | .wait1 => .none
  | .settle => .none
  | .readAck => .recv7
  | .wait2 => .none
  | .readResp => .recv64
  | .release2 => .release

/-- The invariant of the machine: what the spec says of its state between any two steps. -/
structure State.Inv (s : State) : Prop where
  /-- "PHASE is IDLE exactly when STATUS.BUSY = 0" (R22). -/
  busy_phase : s.busy = true ↔ s.phase ≠ .idle
  /-- "BUSY = 1 and DONE = 1 never hold together" (R20). -/
  busy_done : s.busy = true → s.done = false
  /-- "While STATUS.BUSY = 1 it therefore reads 0x00" (R21). -/
  busy_code : s.busy = true → s.code = .ok
  /-- REQ is the request of the phase (R43, R123). -/
  req_phase : s.req = s.expectedReq
  /-- "SAMPLE_DUE is 0 whenever PHASE is not WAIT1 or WAIT2" (R87). -/
  due_phase : s.sampleDue = true → s.phase.isWait = true
  /-- A wait phase has taken fewer samples than its limit (R87). -/
  wait_poll : s.phase.isWait = true → s.pollCount.toNat < s.waitLimit
  /-- POLL_COUNT "never exceeds max(POLL_LIMIT, 1)" while an exchange runs (R36). -/
  busy_poll : s.busy = true → s.pollCount.toNat ≤ s.waitLimit
  /-- SETTLE has counted fewer ticks than SETTLE_TICKS (R89). -/
  settle_count : s.phase = .settle → s.settleCnt.toNat < s.settleTicks.toNat
  /-- SETTLE_CNT is 0 in IDLE (R93). -/
  idle_settle : s.phase = .idle → s.settleCnt = 0#8
  /-- ACK_COUNT is in 0..7 (R27). -/
  ack_count : s.ackCount.toNat ≤ 7
  /-- RX_COUNT is in 0..64 (R29). -/
  rx_count : s.rxCount.toNat ≤ 64
  /-- RESP_AVAIL is in 0..62 (R32). -/
  resp_avail : s.respAvail.toNat ≤ 62
  /-- LEN9 is in 4..259 when SUCCESS = 1 (R31). -/
  resp_len : s.respFlags.success = true → 4 ≤ s.respLen.toNat ∧ s.respLen.toNat ≤ 259
  /-- LEN9, RESP_AVAIL and LAYOUT_B are 0 when SUCCESS = 0 (R30, R31, R32). -/
  resp_none : s.respFlags.success = false → s.respLen = 0#9 ∧ s.respAvail = 0#8 ∧ s.respFlags.layoutB = false
  /-- TX_LEN is 0, "meaning no frame", or TX_BUF[0..TX_LEN) is a command frame of 7 to 65 bytes (R26, R38). -/
  tx_frame : s.txLen = 0#8 ∨
    ∃ p, 1 ≤ p.length ∧ p.length ≤ Config.inMax ∧ s.txLen.toNat = p.length + 6 ∧ s.txFrame = encodeFrame p
  /-- "So the frame sent is always the frame encoded at acceptance" (R57): while an exchange runs, TX_BUF holds
  the frame of IN_BUF[0..IN_LEN). -/
  busy_frame : s.busy = true →
    s.frameLengthOk = true ∧ s.txLen.toNat = s.inLen.toNat + 6 ∧ s.txFrame = encodeFrame s.inBytes
  /-- RELEASE1 and RELEASE2 exist only when CTRL.END_TXN_EN = 1 (R85, R35). -/
  release_en : s.phase = .release1 ∨ s.phase = .release2 → s.endTxnEn = true

/-- The run is over: the agents have no step left, a RD of STATUS would return BUSY = 0, and no transport request
is outstanding (R107). -/
def State.RunOver (s : State) : Prop := s.inputs = [] ∧ s.busy = false ∧ s.req = .none

/-- The (CODE, END_PHASE) pairs an EXCHANGE that was accepted with a legal length can finish with (R97). -/
def exchangeOutcome (endTxnEn : Bool) (c : Completion) (p : Phase) : Prop :=
  (c = .timeout ∧ p = .wait1) ∨ (c = .invalidAck ∧ p = .readAck) ∨ (c = .timeout ∧ p = .wait2) ∨
    (c = .ok ∧ p = .readResp ∧ endTxnEn = false) ∨ (c = .ok ∧ p = .release2 ∧ endTxnEn = true)

/-- The phases each phase leaves to, without IDLE, which a finish leads to (R81, R99). -/
def Phase.successors : Phase → List Phase
  | .idle => [.wake]
  | .wake => [.send]
  | .send => [.release1, .wait1]
  | .release1 => [.wait1]
  | .wait1 => [.settle, .readAck]
  | .settle => [.readAck]
  | .readAck => [.wait2]
  | .wait2 => [.readResp]
  | .readResp => [.release2]
  | .release2 => []

/-- The ticks the current wait phase can still count: L - 1 between its L samples (R98). -/
def State.waitBudget (s : State) : Nat :=
  if s.sampleDue then s.waitLimit - 1 - s.pollCount.toNat else s.waitLimit - s.pollCount.toNat

/-- The ticks an exchange can still count (R98): (L - 1) + S + (L - 1) at its start. -/
def State.tickBudget (s : State) : Nat :=
  match s.phase with
  | .idle => 0
  | .wake => (s.waitLimit - 1) + s.settleTicks.toNat + (s.waitLimit - 1)
  | .send => (s.waitLimit - 1) + s.settleTicks.toNat + (s.waitLimit - 1)
  | .release1 => (s.waitLimit - 1) + s.settleTicks.toNat + (s.waitLimit - 1)
  | .wait1 => s.waitBudget + s.settleTicks.toNat + (s.waitLimit - 1)
  | .settle => (s.settleTicks.toNat - s.settleCnt.toNat) + (s.waitLimit - 1)
  | .readAck => s.waitLimit - 1
  | .wait2 => s.waitBudget
  | .readResp => 0
  | .release2 => 0

/-- The sequencer is in a counting state: a tick now is counted by a wait phase or by SETTLE (R88, R89). -/
def State.counting (s : State) : Bool := (s.phase.isWait && !s.sampleDue) || s.phase == .settle

/-- The next step is a tick that finds the sequencer in a counting state (R98). -/
def State.tickCounts (s : State) : Bool :=
  match s.inputs with
  | .tick :: _ => s.counting
  | _ => false

/-- The ticks counted in the first k steps of a run, up to the first state with BUSY = 0 (R98). -/
def ticksCounted : Nat → State → Nat
  | 0, _ => 0
  | k + 1, s =>
    if s.busy then
      match step s with
      | .next t => (if s.tickCounts then 1 else 0) + ticksCounted k t
      | _ => 0
    else 0

/-- Nothing the host cannot read through the register map changes: the hidden state of R43. -/
def SameHidden (s t : State) : Prop :=
  t.req = s.req ∧ t.sampleDue = s.sampleDue ∧ t.settleCnt = s.settleCnt

/-- The model's own fields that only RD and the agents' turns change are the same. -/
def SameOutside (s t : State) : Prop :=
  t.inputs = s.inputs ∧ t.rdData = s.rdData ∧ t.draws = s.draws ∧ t.epoch = s.epoch ∧ t.params = s.params

/-- The bytes the host registers base, base + 1, ..., base + n - 1 hold: a buffer as the host sees it (R16). -/
def State.peekRange (s : State) (base n : Nat) : List Byte :=
  (List.range n).map fun i => s.peek (BitVec.ofNat 9 (base + i))

/-- The host addresses base, base + 1, ..., base + n - 1. -/
def addrRange (base n : Nat) : List Nat := (List.range n).map fun i => base + i

/-- The reserved addresses as R46 lists them. -/
def reservedAddr (n : Nat) : Bool :=
  n == 0x00F || (decide (0x016 ≤ n) && decide (n ≤ 0x01F)) || (decide (0x0A1 ≤ n) && decide (n ≤ 0x0A7)) ||
    n == 0x0AF || (decide (0x0F0 ≤ n) && decide (n ≤ 0x0FF)) || (decide (0x13E ≤ n) && decide (n ≤ 0x1FF))

/-- The V set as R17 and the map of R16 list it. -/
def volatileAddr (n : Nat) : Bool :=
  (decide (0x008 ≤ n) && decide (n ≤ 0x00E)) || (decide (0x0A8 ≤ n) && decide (n ≤ 0x0AE)) ||
    (decide (0x0B0 ≤ n) && decide (n ≤ 0x0EF)) || (decide (0x100 ≤ n) && decide (n ≤ 0x13D))

/-- The host-writable addresses as R18 and the map of R16 list them. -/
def writableAddr (n : Nat) : Bool :=
  n == 0x000 || n == 0x005 || n == 0x008 || n == 0x00A || (decide (0x010 ≤ n) && decide (n ≤ 0x013)) ||
    (decide (0x020 ≤ n) && decide (n ≤ 0x05F)) || (decide (0x0A8 ≤ n) && decide (n ≤ 0x0AE)) ||
    (decide (0x0B0 ≤ n) && decide (n ≤ 0x0EF))

/-- The run of k steps, stopping at the first refusal. -/
def runSteps : Nat → State → Answer
  | 0, s => .next s
  | k + 1, s =>
    match step s with
    | .next t => runSteps k t
    | other => other

/-- The steps of a wait that never sees ready: n samples that draw 0 with a tick between each two (R87, R88). -/
def failedWait : Nat → List Input
  | 0 => []
  | 1 => [.sample false]
  | n + 2 => .sample false :: .tick :: failedWait (n + 1)

/-- Every byte of the host register space outside the listed addresses reads as before. -/
def SameBytesExcept (addrs : List Nat) (s t : State) : Prop :=
  ∀ a : Addr, a.toNat ∉ addrs → t.peek a = s.peek a

end Sys2Proof.Machine
end

