-- ==== Sys2Proof/Certificates/Slice0/Obligations.lean ====
section
/-! DEFINITION. The obligations: what IPASS-FE does, from the numbered rules of spec/. Register contents are stated
through the byte a host reads at an address (`State.peek`, `State.peekRange`), and frames over every address of the
host register space. -/

open Sys2Proof Sys2Proof.Machine

/-! ### The host bus -/

/-- R17: RD of a V register while BUSY = 1 gives the host a fresh free byte and has no other effect; RD of any
other register, or at any other time, gives the byte the register holds. -/
def Obligations.RdReturnsRegisterOrAny : Prop :=
  ∀ (a : Addr) (s : State),
    (s.busy = true → volatileAddr a.toNat = true →
      exec (.rd a) s = .next { s with rdData := Config.anyByte s.draws, draws := s.draws + 1 }) ∧
    ((s.busy = false ∨ volatileAddr a.toNat = false) → exec (.rd a) s = .next { s with rdData := s.peek a })

/-- R16, R20, R21, R22, R23, R28, R30, R61: which byte each address of the host register space reads as, with the
flags at their bits and the codes of the phases and completions written out. -/
def Obligations.RegisterMapAddresses : Prop :=
  ∀ s : State,
    s.peek 0x000#9 = s.cmd ∧
    (s.peek 0x001#9).toNat = s.busy.toNat + 2 * s.done.toNat + 4 * s.rej.toNat ∧
    (∀ cb ∈ [(Completion.ok, 0x00#8), (.timeout, 0x01#8), (.invalidAck, 0x02#8), (.badLength, 0x03#8),
        (.badCmd, 0x04#8)], s.code = cb.1 → s.peek 0x002#9 = cb.2) ∧
    (∀ pb ∈ [(Phase.idle, 0x00#8), (.wake, 0x01#8), (.send, 0x02#8), (.release1, 0x03#8), (.wait1, 0x04#8),
        (.settle, 0x05#8), (.readAck, 0x06#8), (.wait2, 0x07#8), (.readResp, 0x08#8), (.release2, 0x09#8)],
      (s.phase = pb.1 → s.peek 0x003#9 = pb.2) ∧ (s.endPhase = pb.1 → s.peek 0x004#9 = pb.2)) ∧
    s.peek 0x005#9 = s.inLen ∧ s.peek 0x006#9 = s.csum ∧ s.peek 0x007#9 = s.txLen ∧ s.peek 0x008#9 = s.ackCount ∧
    (s.peek 0x009#9).toNat = s.ackResult.matched.toNat + 2 * s.ackResult.long.toNat + 4 * s.ackResult.short.toNat ∧
    s.peek 0x00A#9 = s.rxCount ∧
    (s.peek 0x00B#9).toNat = s.respFlags.success.toNat + 2 * s.respFlags.layoutB.toNat
      + 4 * s.respFlags.trunc.toNat + 8 * s.respFlags.lcsOk.toNat + 16 * s.respFlags.dcsOk.toNat ∧
    (s.peek 0x00C#9).toNat + 256 * (s.peek 0x00D#9).toNat = s.respLen.toNat ∧ s.peek 0x00E#9 = s.respAvail ∧
    (s.peek 0x010#9).toNat + 256 * (s.peek 0x011#9).toNat = s.pollLimit.toNat ∧
    s.peek 0x012#9 = s.settleTicks ∧ s.peek 0x013#9 = (if s.endTxnEn then 0x01#8 else 0x00#8) ∧
    (s.peek 0x014#9).toNat + 256 * (s.peek 0x015#9).toNat = s.pollCount.toNat ∧
    s.peekRange 0x020 64 = s.inBuf.toList ∧ s.peekRange 0x060 65 = s.txBuf.toList ∧
    s.peekRange 0x0A8 7 = s.ackBuf.toList ∧ s.peekRange 0x0B0 64 = s.rxBuf.toList ∧
    s.peekRange 0x100 62 = s.payload.toList ∧ ∀ a : Addr, reservedAddr a.toNat = true → s.peek a = 0x00#8

/-- R46: a RD of a reserved address returns 0x00, a WR to one changes no state, even while BUSY = 1, and the
reserved bits inside registers read 0 and ignore writes. -/
def Obligations.ReservedReadsZeroIgnoresWrites : Prop :=
  ∀ s : State,
    (∀ a : Addr, reservedAddr a.toNat = true →
      exec (.rd a) s = .next { s with rdData := 0x00#8 } ∧ ∀ v : Byte, exec (.wr a v) s = .next s) ∧
    s.peek 0x001#9 &&& 0xF8#8 = 0#8 ∧ s.peek 0x003#9 &&& 0xF0#8 = 0#8 ∧ s.peek 0x004#9 &&& 0xF0#8 = 0#8 ∧
    s.peek 0x009#9 &&& 0xF8#8 = 0#8 ∧ s.peek 0x00B#9 &&& 0xE0#8 = 0#8 ∧ s.peek 0x00D#9 &&& 0xFE#8 = 0#8 ∧
    s.peek 0x013#9 &&& 0xFE#8 = 0#8 ∧
    ∀ v : Byte, exec (.wr 0x013#9 v) s = exec (.wr 0x013#9 (v &&& 0x01#8)) s

/-- R101: a WR to a register other than CMD, while BUSY = 0, stores the byte (a count clamps, reserved bits of
CTRL are dropped, a read-only or reserved address is ignored) and changes no other byte and no hidden state. -/
def Obligations.WrStoresOneRegister : Prop :=
  ∀ (a : Addr) (v : Byte) (s : State), s.busy = false → a ≠ 0x000#9 →
    ∃ t, exec (.wr a v) s = .next t ∧
      t.peek a =
        (if a = 0x008#9 then BitVec.ofNat 8 (min v.toNat 7)
         else if a = 0x00A#9 then BitVec.ofNat 8 (min v.toNat 64)
         else if a = 0x013#9 then v &&& 0x01#8
         else if writableAddr a.toNat then v
         else s.peek a) ∧
      SameBytesExcept [a.toNat] s t ∧ SameHidden s t ∧ SameOutside s t

/-- R18: while BUSY = 1 a host write to a writable register, CMD included, changes nothing but REJ, which it sets;
a write to a read-only or reserved address is ignored at all times and does not set REJ. -/
def Obligations.WrWhileBusySetsRejOnly : Prop :=
  ∀ s : State,
    (s.busy = true →
      (∀ (a : Addr) (v : Byte), writableAddr a.toNat = true → exec (.wr a v) s = .next { s with rej := true }) ∧
      (∀ i ∈ [Instr.checksum, .encode, .decode, .ackmatch, .exchange], exec i s = .next { s with rej := true }) ∧
      ∀ code : Byte, exec (.badCmd code) s = .next { s with rej := true }) ∧
    ∀ (a : Addr) (v : Byte), writableAddr a.toNat = false → exec (.wr a v) s = .next s

/-- R57, R96: no host operation stops, restarts or changes an exchange in flight: while BUSY = 1 a bus word the
decoder accepts takes a step that changes at most REJ, the byte the host got and the count of draws. -/
def Obligations.HostCannotDisturbExchange : Prop :=
  ∀ (s : State) (w : BusWord) (rest : List Input) (i : Instr), s.inputs = .bus w :: rest → s.busy = true →
    decode (.busWord w) = .ok i →
    ∃ (r : Bool) (d : Byte) (n : Nat),
      step s = .next { s with inputs := rest, rej := r, rdData := d, draws := n }

/-- R67: the step of a RD word with DATA other than 0x00 is refused; every other bus word is an instruction the
decoder accepts. -/
def Obligations.OnlyReadWithDataIsIllegal : Prop :=
  ∀ (w : BusWord) (s : State) (rest : List Input), s.inputs = .bus w :: rest →
    (w.toNat < 0x20000 → w.toNat % 256 ≠ 0 → step s = .refused .illegalWord) ∧
    ((0x20000 ≤ w.toNat ∨ w.toNat % 256 = 0) → ∃ i, decode (.busWord w) = .ok i ∧ i.wf = true)

/-! ### The codec and the matcher -/

/-- R69: the checksum of a byte sequence, with its corner cases. -/
def Obligations.ChecksumFormula : Prop :=
  (∀ s : List Byte, (checksum s).toNat = (256 - byteSum s % 256) % 256 ∧
    (checksum s = 0x00#8 ↔ byteSum s % 256 = 0)) ∧
  checksum [] = 0x00#8 ∧ checksum [0x80#8] = 0x80#8 ∧ checksum [0xD4#8, 0x02#8] = 0x2A#8

/-- R70: a sequence and its checksum sum to 0 mod 256, and the checksum depends only on the sum mod 256, so not
on the order. -/
def Obligations.ChecksumLaw : Prop :=
  (∀ s : List Byte, (byteSum s + (checksum s).toNat) % 256 = 0) ∧
  (∀ s t : List Byte, byteSum s % 256 = byteSum t % 256 → checksum s = checksum t) ∧
  (∀ s t : List Byte, s.Perm t → checksum s = checksum t)

/-- R71: the bytes of the frame EncodeFrame makes of a payload of 1 to 59 bytes. -/
def Obligations.EncodeFrameBytes : Prop :=
  ∀ p : List Byte, 1 ≤ p.length → p.length ≤ 59 →
    (encodeFrame p).length = p.length + 6 ∧
    (encodeFrame p)[0]? = some 0x00#8 ∧ (encodeFrame p)[1]? = some 0xFF#8 ∧
    ((encodeFrame p)[2]?.map BitVec.toNat) = some (p.length + 1) ∧
    (encodeFrame p)[3]? = some (checksum [BitVec.ofNat 8 (p.length + 1)]) ∧
    (encodeFrame p)[4]? = some 0xD4#8 ∧
    (∀ i, i < p.length → (encodeFrame p)[5 + i]? = p[i]?) ∧
    (encodeFrame p)[5 + p.length]? = some (checksum (0xD4#8 :: p))

/-- R72: from its length byte to its payload checksum a frame sums to 0 mod 256, and so do LEN and LCS. -/
def Obligations.EncodedFrameSumsToZero : Prop :=
  ∀ p : List Byte, 1 ≤ p.length → p.length ≤ 59 →
    byteSum ((encodeFrame p).drop 2) % 256 = 0 ∧
    (((encodeFrame p).getD 2 0#8).toNat + ((encodeFrame p).getD 3 0#8).toNat) % 256 = 0

/-- R73: DecodeFrame on a buffer and a count of valid bytes. -/
def Obligations.DecodeFrameFields : Prop :=
  ∀ (raw : Vector Byte 64) (c : Nat), c ≤ 64 →
    (¬(2 ≤ c ∧ raw[0] = 0x00#8 ∧ raw[1] = 0xFF#8) → ¬(2 ≤ c ∧ raw[0] = 0x01#8 ∧ raw[1] = 0x00#8) →
      decodeFrame raw c = { flags := ⟨false, false, false, false, false⟩, len9 := 0#9, avail := 0#8, payload := [] }) ∧
    ∀ (start : Nat) (layoutB : Bool),
      (2 ≤ c ∧ raw[0] = 0x00#8 ∧ raw[1] = 0xFF#8 ∧ start = 2 ∧ layoutB = false) ∨
        (2 ≤ c ∧ raw[0] = 0x01#8 ∧ raw[1] = 0x00#8 ∧ start = 4 ∧ layoutB = true) →
      (c ≤ start →
        decodeFrame raw c =
          { flags := ⟨false, false, true, false, false⟩, len9 := 0#9, avail := 0#8, payload := [] }) ∧
      (start < c →
        ∃ (L : Nat) (r : Response), raw.toList[start]?.map BitVec.toNat = some L ∧ decodeFrame raw c = r ∧
          r.flags.success = true ∧ r.flags.layoutB = layoutB ∧ r.len9.toNat = L + 4 ∧
          r.avail.toNat = min (L + 4) (c - start) ∧
          (r.flags.trunc = true ↔ c - start < L + 4) ∧
          (r.flags.lcsOk = true ↔
            start + 1 < c ∧ (L + (raw.toList.getD (start + 1) 0#8).toNat) % 256 = 0) ∧
          (r.flags.dcsOk = true ↔
            start + 2 + L < c ∧
              byteSum ((List.range (L + 1)).map fun i => raw.toList.getD (start + 2 + i) 0#8) % 256 = 0) ∧
          r.payload.length = r.avail.toNat ∧
          ∀ i, i < r.avail.toNat → r.payload[i]? = raw.toList[start + i]?)

/-- R73, N8: no byte at or beyond the received count is read: buffers that agree below it decode alike. -/
def Obligations.DecodeReadsOnlyReceivedBytes : Prop :=
  ∀ (raw raw' : Vector Byte 64) (c : Nat), c ≤ 64 → raw.toList.take c = raw'.toList.take c →
    decodeFrame raw c = decodeFrame raw' c

/-- R78: AckMatch on a buffer and a count of valid bytes. -/
def Obligations.AckMatchFields : Prop :=
  ∀ (buf : Vector Byte 7) (c : Nat), c ≤ 7 →
    (c = 0 → ackMatch buf c = ⟨false, false, true⟩) ∧
    (c ≠ 0 → buf[0] ≠ 0x00#8 →
      (c < 7 → ackMatch buf c = ⟨false, true, true⟩) ∧
      (c = 7 → (ackMatch buf c).long = true ∧ (ackMatch buf c).short = false ∧
        ((ackMatch buf c).matched = true ↔
          buf.toList = [0x01#8, 0x00#8, 0x00#8, 0xFF#8, 0x00#8, 0xFF#8, 0x00#8]))) ∧
    (c ≠ 0 → buf[0] = 0x00#8 →
      (c < 6 → ackMatch buf c = ⟨false, false, true⟩) ∧
      (6 ≤ c → (ackMatch buf c).long = false ∧ (ackMatch buf c).short = false ∧
        ((ackMatch buf c).matched = true ↔
          buf.toList.take 6 = [0x00#8, 0x00#8, 0xFF#8, 0x00#8, 0xFF#8, 0x00#8])))

/-- R79: the templates match, any one changed byte of the compared range does not, and a first byte other than
0x00 or 0x01 never does. -/
def Obligations.AckMatchSingleByteChange : Prop :=
  (ackMatch #v[0x01#8, 0x00#8, 0x00#8, 0xFF#8, 0x00#8, 0xFF#8, 0x00#8] 7).matched = true ∧
  (∀ x : Byte,
    (ackMatch #v[0x00#8, 0x00#8, 0xFF#8, 0x00#8, 0xFF#8, 0x00#8, x] 7).matched = true ∧
    (ackMatch #v[0x00#8, 0x00#8, 0xFF#8, 0x00#8, 0xFF#8, 0x00#8, x] 6).matched = true) ∧
  (∀ (i : Fin 7) (b : Byte), b ≠ (#v[0x01#8, 0x00#8, 0x00#8, 0xFF#8, 0x00#8, 0xFF#8, 0x00#8] : Vector Byte 7)[i] →
    (ackMatch ((#v[0x01#8, 0x00#8, 0x00#8, 0xFF#8, 0x00#8, 0xFF#8, 0x00#8] : Vector Byte 7).set i b) 7).matched
      = false) ∧
  (∀ (x : Byte) (i : Fin 7) (b : Byte), i.val < 6 →
    b ≠ (#v[0x00#8, 0x00#8, 0xFF#8, 0x00#8, 0xFF#8, 0x00#8, x] : Vector Byte 7)[i] →
    (ackMatch ((#v[0x00#8, 0x00#8, 0xFF#8, 0x00#8, 0xFF#8, 0x00#8, x] : Vector Byte 7).set i b) 7).matched
      = false) ∧
  (∀ (buf : Vector Byte 7) (c : Nat), buf[0] ≠ 0x00#8 → buf[0] ≠ 0x01#8 → (ackMatch buf c).matched = false)

/-! ### The commands -/

/-- R75: CHECKSUM, its word, that it is accepted only while BUSY = 0, and what it then leaves. -/
def Obligations.ChecksumCommand : Prop :=
  decode (.busWord 0x20001#18) = .ok .checksum ∧
  (∀ s : State, s.busy = true → exec .checksum s = .next { s with rej := true }) ∧
  ∀ s : State, s.busy = false → s.phase = .idle →
    ∃ t, exec .checksum s = .next t ∧
      t.peek 0x000#9 = 0x01#8 ∧ t.peek 0x001#9 = 0x02#8 ∧ t.peek 0x003#9 = 0x00#8 ∧ t.peek 0x004#9 = 0x00#8 ∧
      (s.inLen.toNat ≤ 64 →
        t.peek 0x002#9 = 0x00#8 ∧ t.peek 0x006#9 = checksum (s.peekRange 0x020 s.inLen.toNat)) ∧
      (64 < s.inLen.toNat → t.peek 0x002#9 = 0x03#8 ∧ t.peek 0x006#9 = s.peek 0x006#9) ∧
      SameBytesExcept [0x000, 0x001, 0x002, 0x003, 0x004, 0x006] s t ∧
      t.req = .none ∧ t.sampleDue = false ∧ t.settleCnt = 0#8 ∧ SameOutside s t

/-- R76: ENCODE, its word, that it is accepted only while BUSY = 0, and what it then leaves. -/
def Obligations.EncodeCommand : Prop :=
  decode (.busWord 0x20002#18) = .ok .encode ∧
  (∀ s : State, s.busy = true → exec .encode s = .next { s with rej := true }) ∧
  ∀ (s : State) (n : Nat), s.busy = false → s.phase = .idle → (s.peek 0x005#9).toNat = n →
    ∃ t, exec .encode s = .next t ∧
      t.peek 0x000#9 = 0x02#8 ∧ t.peek 0x001#9 = 0x02#8 ∧ t.peek 0x003#9 = 0x00#8 ∧ t.peek 0x004#9 = 0x00#8 ∧
      (1 ≤ n → n ≤ 59 →
        t.peek 0x002#9 = 0x00#8 ∧ (t.peek 0x007#9).toNat = n + 6 ∧
        t.peekRange 0x060 (n + 6) = encodeFrame (s.peekRange 0x020 n) ∧
        SameBytesExcept ([0x000, 0x001, 0x002, 0x003, 0x004, 0x007] ++ addrRange 0x060 (n + 6)) s t) ∧
      (n = 0 ∨ 59 < n →
        t.peek 0x002#9 = 0x03#8 ∧ SameBytesExcept [0x000, 0x001, 0x002, 0x003, 0x004] s t) ∧
      t.req = .none ∧ t.sampleDue = false ∧ t.settleCnt = 0#8 ∧ SameOutside s t

/-- R77, R74: DECODE, its word, that it is accepted only while BUSY = 0, and what it then leaves: always OK, and
the result of DecodeFrame in the response registers. -/
def Obligations.DecodeCommand : Prop :=
  decode (.busWord 0x20003#18) = .ok .decode ∧
  (∀ s : State, s.busy = true → exec .decode s = .next { s with rej := true }) ∧
  ∀ (s : State) (r : Response), s.busy = false → s.phase = .idle → s.rxCount.toNat ≤ 64 →
    decodeFrame s.rxBuf s.rxCount.toNat = r →
    ∃ t, exec .decode s = .next t ∧
      t.peek 0x000#9 = 0x03#8 ∧ t.peek 0x001#9 = 0x02#8 ∧ t.peek 0x002#9 = 0x00#8 ∧ t.peek 0x003#9 = 0x00#8 ∧
      t.peek 0x004#9 = 0x00#8 ∧
      (t.peek 0x00B#9).toNat = r.flags.success.toNat + 2 * r.flags.layoutB.toNat + 4 * r.flags.trunc.toNat
        + 8 * r.flags.lcsOk.toNat + 16 * r.flags.dcsOk.toNat ∧
      (t.peek 0x00C#9).toNat + 256 * (t.peek 0x00D#9).toNat = r.len9.toNat ∧
      t.peek 0x00E#9 = r.avail ∧ t.peekRange 0x100 r.avail.toNat = r.payload ∧
      SameBytesExcept ([0x000, 0x001, 0x002, 0x003, 0x004, 0x00B, 0x00C, 0x00D, 0x00E]
        ++ addrRange 0x100 r.avail.toNat) s t ∧
      t.req = .none ∧ t.sampleDue = false ∧ t.settleCnt = 0#8 ∧ SameOutside s t

/-- R80: ACKMATCH, its word, that it is accepted only while BUSY = 0, and what it then leaves. -/
def Obligations.AckmatchCommand : Prop :=
  decode (.busWord 0x20004#18) = .ok .ackmatch ∧
  (∀ s : State, s.busy = true → exec .ackmatch s = .next { s with rej := true }) ∧
  ∀ (s : State) (a : AckResult), s.busy = false → s.phase = .idle → ackMatch s.ackBuf s.ackCount.toNat = a →
    ∃ t, exec .ackmatch s = .next t ∧
      t.peek 0x000#9 = 0x04#8 ∧ t.peek 0x001#9 = 0x02#8 ∧ t.peek 0x003#9 = 0x00#8 ∧ t.peek 0x004#9 = 0x00#8 ∧
      t.peek 0x002#9 = (if a.matched then 0x00#8 else 0x02#8) ∧
      (t.peek 0x009#9).toNat = a.matched.toNat + 2 * a.long.toNat + 4 * a.short.toNat ∧
      SameBytesExcept [0x000, 0x001, 0x002, 0x003, 0x004, 0x009] s t ∧
      t.req = .none ∧ t.sampleDue = false ∧ t.settleCnt = 0#8 ∧ SameOutside s t

/-- R82: EXCHANGE, its word, that it is accepted only while BUSY = 0, and what its acceptance leaves. -/
def Obligations.ExchangeCommand : Prop :=
  decode (.busWord 0x20005#18) = .ok .exchange ∧
  (∀ s : State, s.busy = true → exec .exchange s = .next { s with rej := true }) ∧
  ∀ (s : State) (n : Nat), s.busy = false → s.phase = .idle → (s.peek 0x005#9).toNat = n →
    ∃ t, exec .exchange s = .next t ∧ t.peek 0x000#9 = 0x05#8 ∧ SameOutside s t ∧
      (1 ≤ n → n ≤ 59 →
        t.peek 0x001#9 = 0x01#8 ∧ t.peek 0x002#9 = 0x00#8 ∧ t.peek 0x003#9 = 0x01#8 ∧
        (t.peek 0x007#9).toNat = n + 6 ∧ t.peekRange 0x060 (n + 6) = encodeFrame (s.peekRange 0x020 n) ∧
        t.peekRange 0x008 7 = List.replicate 7 0x00#8 ∧ t.peekRange 0x014 2 = [0x00#8, 0x00#8] ∧
        t.req = .wake ∧ t.sampleDue = s.sampleDue ∧ t.settleCnt = s.settleCnt ∧
        SameBytesExcept ([0x000, 0x001, 0x002, 0x003, 0x007, 0x008, 0x009, 0x00A, 0x00B, 0x00C, 0x00D, 0x00E,
          0x014, 0x015] ++ addrRange 0x060 (n + 6)) s t) ∧
      (n = 0 ∨ 59 < n →
        t.peek 0x001#9 = 0x02#8 ∧ t.peek 0x002#9 = 0x03#8 ∧ t.peek 0x003#9 = 0x00#8 ∧ t.peek 0x004#9 = 0x00#8 ∧
        t.req = .none ∧ t.sampleDue = false ∧ t.settleCnt = 0#8 ∧
        SameBytesExcept [0x000, 0x001, 0x002, 0x003, 0x004] s t)

/-- R102: a reserved command code is accepted and at once finishes with BAD_CMD. -/
def Obligations.BadCmdCommand : Prop :=
  ∀ (code : Byte), (code = 0x00#8 ∨ 0x06 ≤ code.toNat) →
    decode (.busWord (0x20000#18 ||| code.setWidth 18)) = .ok (.badCmd code) ∧
    ∀ s : State, s.busy = false → s.phase = .idle →
      ∃ t, exec (.badCmd code) s = .next t ∧
        t.peek 0x000#9 = code ∧ t.peek 0x001#9 = 0x02#8 ∧ t.peek 0x002#9 = 0x04#8 ∧ t.peek 0x003#9 = 0x00#8 ∧
        t.peek 0x004#9 = 0x00#8 ∧ SameBytesExcept [0x000, 0x001, 0x002, 0x003, 0x004] s t ∧
        t.req = .none ∧ t.sampleDue = false ∧ t.settleCnt = 0#8 ∧ SameOutside s t

/-! ### The sequencer -/

/-- R83: the completion of Wake in phase WAKE. -/
def Obligations.WakeCompletes : Prop :=
  ∀ (s : State) (rest : List Input), s.inputs = .doneWake :: rest → s.phase = .wake → s.req = .wake →
    s.txLen.toNat ≤ 65 →
    step s = .next { s with inputs := rest, phase := .send, req := .send (s.peekRange 0x060 s.txLen.toNat) }

/-- R84: the completion of Send in phase SEND, whatever the frame carries. -/
def Obligations.SendCompletes : Prop :=
  ∀ (s : State) (rest : List Input) (frame : List Byte), s.inputs = .doneSend :: rest → s.phase = .send →
    s.req = .send frame →
    (s.peek 0x013#9 = 0x01#8 → step s = .next { s with inputs := rest, phase := .release1, req := .release }) ∧
    (s.peek 0x013#9 = 0x00#8 →
      step s = .next { s with inputs := rest, phase := .wait1, req := .none, pollCount := 0#16, sampleDue := true })

/-- R85, R92: the completion of Release in RELEASE1 and in RELEASE2. -/
def Obligations.ReleaseCompletes : Prop :=
  ∀ (s : State) (rest : List Input), s.inputs = .doneRelease :: rest → s.req = .release →
    (s.phase = .release1 →
      step s = .next { s with inputs := rest, phase := .wait1, req := .none, pollCount := 0#16, sampleDue := true }) ∧
    (s.phase = .release2 →
      step s = .next { s with
        inputs := rest, code := .ok, endPhase := .release2, phase := .idle, busy := false, done := true,
        req := .none, sampleDue := false, settleCnt := 0#8 })

/-- R87: the sample step in a wait phase that has taken fewer samples than its limit. -/
def Obligations.SampleStep : Prop :=
  ∀ (s : State) (rest : List Input) (ready : Bool), s.inputs = .sample ready :: rest →
    (s.phase = .wait1 ∨ s.phase = .wait2) → s.sampleDue = true → s.pollCount.toNat < max s.pollLimit.toNat 1 →
    ∃ t, step s = .next t ∧ t.inputs = rest ∧ t.pollCount.toNat = s.pollCount.toNat + 1 ∧ t.sampleDue = false ∧
      (ready = true →
        t.busy = s.busy ∧ t.code = s.code ∧ t.endPhase = s.endPhase ∧ t.done = s.done ∧
        (s.phase = .wait1 → s.settleTicks ≠ 0#8 →
          t.phase = .settle ∧ t.req = s.req ∧ t.settleCnt = 0#8) ∧
        (s.phase = .wait1 → s.settleTicks = 0#8 → t.phase = .readAck ∧ t.req = .recv7 ∧ t.settleCnt = 0#8) ∧
        (s.phase = .wait2 → t.phase = .readResp ∧ t.req = .recv64 ∧ t.settleCnt = s.settleCnt)) ∧
      (ready = false → s.pollCount.toNat + 1 < max s.pollLimit.toNat 1 →
        t.phase = s.phase ∧ t.req = s.req ∧ t.settleCnt = s.settleCnt ∧ t.busy = s.busy ∧ t.code = s.code ∧
        t.endPhase = s.endPhase ∧ t.done = s.done) ∧
      (ready = false → max s.pollLimit.toNat 1 ≤ s.pollCount.toNat + 1 →
        t.phase = .idle ∧ t.code = .timeout ∧ t.endPhase = s.phase ∧ t.busy = false ∧ t.done = true ∧
        t.req = .none ∧ t.settleCnt = 0#8) ∧
      SameBytesExcept [0x001, 0x002, 0x003, 0x004, 0x014, 0x015] s t ∧ t.rej = s.rej ∧
      t.rdData = s.rdData ∧ t.draws = s.draws ∧ t.epoch = s.epoch ∧ t.params = s.params

/-- R88: a tick in a wait phase makes a sample due, and changes nothing if one is. -/
def Obligations.TickInWait : Prop :=
  ∀ (s : State) (rest : List Input), s.inputs = .tick :: rest → (s.phase = .wait1 ∨ s.phase = .wait2) →
    (s.sampleDue = false → step s = .next { s with inputs := rest, sampleDue := true }) ∧
    (s.sampleDue = true → step s = .next { s with inputs := rest })

/-- R89: a tick in SETTLE is counted, and the last of SETTLE_TICKS moves on to READ_ACK. -/
def Obligations.TickInSettle : Prop :=
  ∀ (s : State) (rest : List Input), s.inputs = .tick :: rest → s.phase = .settle →
    s.settleCnt.toNat < s.settleTicks.toNat →
    (s.settleCnt.toNat + 1 < s.settleTicks.toNat →
      step s = .next { s with inputs := rest, settleCnt := s.settleCnt + 1#8 }) ∧
    (s.settleTicks.toNat ≤ s.settleCnt.toNat + 1 →
      step s = .next { s with
        inputs := rest, settleCnt := s.settleCnt + 1#8, phase := .readAck, req := .recv7 })

/-- R94: a tick outside SETTLE and outside a wait phase with SAMPLE_DUE = 0, and a sample that is not due or outside
the wait phases, change no state. -/
def Obligations.OtherEventsChangeNothing : Prop :=
  ∀ (s : State) (rest : List Input),
    (s.inputs = .tick :: rest → (s.sampleDue = true ∨ (s.phase ≠ .wait1 ∧ s.phase ≠ .wait2)) → s.phase ≠ .settle →
      step s = .next { s with inputs := rest }) ∧
    ∀ ready : Bool, s.inputs = .sample ready :: rest →
      (s.sampleDue = false ∨ (s.phase ≠ .wait1 ∧ s.phase ≠ .wait2)) → step s = .next { s with inputs := rest }

/-- R90: the completion of Recv(7) with at most 7 bytes. -/
def Obligations.RecvAckCompletes : Prop :=
  ∀ (s : State) (rest : List Input) (d : List Byte) (a : AckResult), s.inputs = .doneRecv d :: rest →
    s.phase = .readAck → s.req = .recv7 → d.length ≤ 7 → ackMatch (overlay s.ackBuf d) d.length = a →
    ∃ t, step s = .next t ∧ t.inputs = rest ∧
      t.peekRange 0x0A8 d.length = d ∧ (t.peek 0x008#9).toNat = d.length ∧ t.ackResult = a ∧
      (a.matched = true →
        t.phase = .wait2 ∧ t.req = .none ∧ t.pollCount = 0#16 ∧ t.sampleDue = true ∧ t.settleCnt = s.settleCnt ∧
        t.busy = s.busy ∧ t.code = s.code ∧ t.done = s.done ∧ t.endPhase = s.endPhase) ∧
      (a.matched = false →
        t.phase = .idle ∧ t.req = .none ∧ t.pollCount = s.pollCount ∧ t.sampleDue = false ∧ t.settleCnt = 0#8 ∧
        t.busy = false ∧ t.code = .invalidAck ∧ t.done = true ∧ t.endPhase = .readAck) ∧
      SameBytesExcept ([0x001, 0x002, 0x003, 0x004, 0x008, 0x009, 0x014, 0x015] ++ addrRange 0x0A8 d.length) s t ∧
      t.rej = s.rej ∧ t.rdData = s.rdData ∧ t.draws = s.draws ∧ t.epoch = s.epoch ∧ t.params = s.params

/-- R91: the completion of Recv(64) with at most 64 bytes: whatever the decode gives, the exchange goes on to OK. -/
def Obligations.RecvRespCompletes : Prop :=
  ∀ (s : State) (rest : List Input) (d : List Byte) (r : Response), s.inputs = .doneRecv d :: rest →
    s.phase = .readResp → s.req = .recv64 → d.length ≤ 64 → decodeFrame (overlay s.rxBuf d) d.length = r →
    ∃ t, step s = .next t ∧ t.inputs = rest ∧
      t.peekRange 0x0B0 d.length = d ∧ (t.peek 0x00A#9).toNat = d.length ∧
      t.respFlags = r.flags ∧ t.respLen = r.len9 ∧ t.respAvail = r.avail ∧
      t.peekRange 0x100 r.avail.toNat = r.payload ∧
      (s.endTxnEn = true →
        t.phase = .release2 ∧ t.req = .release ∧ t.sampleDue = s.sampleDue ∧ t.settleCnt = s.settleCnt ∧
        t.busy = s.busy ∧ t.code = s.code ∧ t.done = s.done ∧ t.endPhase = s.endPhase) ∧
      (s.endTxnEn = false →
        t.phase = .idle ∧ t.req = .none ∧ t.sampleDue = false ∧ t.settleCnt = 0#8 ∧
        t.busy = false ∧ t.code = .ok ∧ t.done = true ∧ t.endPhase = .readResp) ∧
      SameBytesExcept ([0x001, 0x002, 0x003, 0x004, 0x00A, 0x00B, 0x00C, 0x00D, 0x00E]
        ++ addrRange 0x0B0 d.length ++ addrRange 0x100 r.avail.toNat) s t ∧
      t.rej = s.rej ∧ t.rdData = s.rdData ∧ t.draws = s.draws ∧ t.epoch = s.epoch ∧ t.params = s.params

/-- R123: a completion whose kind does not match REQ, one given while REQ = None, and a Recv completion with too
many bytes are refused. -/
def Obligations.MismatchedCompletionRefused : Prop :=
  ∀ (s : State) (rest : List Input),
    (s.inputs = .doneWake :: rest → s.req ≠ .wake → step s = .refused .completionMismatch) ∧
    (s.inputs = .doneSend :: rest → (∀ f, s.req ≠ .send f) → step s = .refused .completionMismatch) ∧
    (s.inputs = .doneRelease :: rest → s.req ≠ .release → step s = .refused .completionMismatch) ∧
    (∀ d, s.inputs = .doneRecv d :: rest → s.req ≠ .recv7 → s.req ≠ .recv64 →
      step s = .refused .completionMismatch) ∧
    (∀ d, s.inputs = .doneRecv d :: rest → s.phase = .readAck → s.req = .recv7 → 7 < d.length →
      step s = .refused .recvTooLong) ∧
    (∀ d, s.inputs = .doneRecv d :: rest → s.phase = .readResp → s.req = .recv64 → 64 < d.length →
      step s = .refused .recvTooLong)

/-- R68, R105: one step of WAITIDLE is a RD of STATUS, which changes no register; while the byte read has BUSY = 1
the host's next step is WAITIDLE again, and at BUSY = 0 it is over. That the loop is one entry of the agents' turns
is the model's own: log entry 12. -/
def Obligations.WaitIdleReadsStatus : Prop :=
  ∀ (s : State) (rest : List Input), s.inputs = .waitIdle :: rest →
    (s.busy = true → step s = .next { s with rdData := s.peek 0x001#9 }) ∧
    (s.busy = false → step s = .next { s with inputs := rest, rdData := s.peek 0x001#9 })

/-! ### Chip opcodes -/

/-- R84, R109: every chip opcode and Mifare sub-command completes where the Send of the frame that carries it is
outstanding, with one and the same effect; elsewhere it is refused. The reading is the model's own: log entry 8. -/
def Obligations.ChipOpcodesAreCarriedAlike : Prop :=
  ∀ (tg : Byte) (args : List Byte),
    ∀ ip ∈ [(Instr.getFirmwareVersion args, 0x02#8 :: args), (.samConfiguration args, 0x14#8 :: args),
        (.rfConfiguration args, 0x32#8 :: args), (.inListPassiveTarget args, 0x4A#8 :: args),
        (.inDataExchange args, 0x40#8 :: args),
        (.authenticateA tg args, 0x40#8 :: tg :: 0x60#8 :: args),
        (.authenticateB tg args, 0x40#8 :: tg :: 0x61#8 :: args),
        (.read16 tg args, 0x40#8 :: tg :: 0x30#8 :: args), (.write16 tg args, 0x40#8 :: tg :: 0xA0#8 :: args),
        (.increment tg args, 0x40#8 :: tg :: 0xC1#8 :: args),
        (.decrement tg args, 0x40#8 :: tg :: 0xC0#8 :: args),
        (.transfer tg args, 0x40#8 :: tg :: 0xB0#8 :: args)],
      ∀ s : State,
        (s.phase = .send → s.req = .send (encodeFrame ip.2) →
          exec ip.1 s = .next
            (if s.endTxnEn then { s with phase := .release1, req := .release }
             else { s with phase := .wait1, req := .none, pollCount := 0#16, sampleDue := true })) ∧
        (s.req ≠ .send (encodeFrame ip.2) → exec ip.1 s = .refused .frameNotOnChannel)

/-- R109: the block does not look at the bytes it carries: two exchanges whose inputs have the same length but
differ in any byte take acceptance steps that leave the same state but for the buffers. -/
def Obligations.ExchangeIgnoresPayloadBytes : Prop :=
  ∀ (s : State) (buf : Vector Byte 64),
    ∃ t u, exec .exchange s = .next t ∧ exec .exchange { s with inBuf := buf } = .next u ∧
      u = { t with inBuf := buf, txBuf := u.txBuf }

/-! ### Steps, decoding, reset -/

/-- A step runs the decoded instruction: the bus word at the head of the agents' turns, decoded, is executed in
the state that has taken that turn. -/
def Obligations.StepRunsBusWord : Prop :=
  ∀ (s : State) (w : BusWord) (rest : List Input) (i : Instr), s.inputs = .bus w :: rest →
    decode (.busWord w) = .ok i → step s = exec i { s with inputs := rest }

/-- A step runs the carried instruction: where Send completes, the instruction the sent frame carries is
executed. -/
def Obligations.StepRunsCarriedInstruction : Prop :=
  ∀ (s : State) (p : List Byte) (rest : List Input) (i : Instr), s.inputs = .doneSend :: rest →
    s.req = .send (encodeFrame p) → decode (.payload p) = .ok i → step s = exec i { s with inputs := rest }

/-- Words written out from the spec's encodings decode to the instructions they stand for. The Read16 clause, that a
sub-command is payload byte 2, is the model's choice (log entry 10, PRESUMED; R115 and R118 mark the layout as general
knowledge). -/
def Obligations.WrittenWordsDecode : Prop :=
  decode (.busWord 0x00100#18) = .ok (.rd 0x001#9) ∧ decode (.busWord 0x20502#18) = .ok (.wr 0x005#9 0x02#8) ∧
  decode (.busWord 0x1FF00#18) = .ok (.rd 0x1FF#9) ∧ decode (.busWord 0x2F512#18) = .ok (.wr 0x0F5#9 0x12#8) ∧
  decode (.busWord 0x20005#18) = .ok .exchange ∧ decode (.busWord 0x20007#18) = .ok (.badCmd 0x07#8) ∧
  decode (.payload [0x02#8]) = .ok (.getFirmwareVersion []) ∧
  decode (.payload [0x40#8, 0x01#8, 0x30#8, 0x04#8]) = .ok (.read16 0x01#8 [0x04#8]) ∧
  decode (.busWord 0x00105#18) = .error .readWithData

/-- Decode and encode agree: the encoding of a well-formed instruction, with every operand at every value it
admits, decodes to it. -/
def Obligations.DecodeOfEncode : Prop :=
  ∀ i : Instr, i.wf = true → decode (encode i) = .ok i

/-- Encode and decode agree: what an accepted encoding decodes to is well-formed and is encoded by it, so no two
encodings are one instruction and no bit is dropped. -/
def Obligations.EncodeOfDecode : Prop :=
  ∀ (e : Encoding) (i : Instr), decode e = .ok i → i.wf = true ∧ encode i = e

/-- R140: every piece of state after reset, for every choice of the open parameters and of the buffer bytes. -/
def Obligations.ResetValues : Prop :=
  ∀ (p : Params) (n : Nat) (draw : Nat → Byte) (s : State), s = State.resetWith p n draw →
    s.peekRange 0x000 16 = List.replicate 16 0x00#8 ∧
    (s.peek 0x010#9).toNat + 256 * (s.peek 0x011#9).toNat = p.pollLimitReset.toNat ∧ s.peek 0x012#9 = 0x01#8 ∧
    s.peek 0x013#9 = (if p.needsRelease then 0x01#8 else 0x00#8) ∧ s.peekRange 0x014 2 = [0x00#8, 0x00#8] ∧
    (∀ a : Addr, 0x020 ≤ a.toNat → reservedAddr a.toNat = false → s.peek a = draw a.toNat) ∧
    s.req = .none ∧ s.sampleDue = false ∧ s.settleCnt = 0#8 ∧ s.phase = .idle ∧ s.busy = false

/-- R141: reset at any point abandons an exchange with no code; the registers take their reset values and the
buffers fresh free bytes (the form of the draw is the model's: log entry 5), and what stands outside the block
stays (log entry 14). -/
def Obligations.ResetEvent : Prop :=
  ∀ (s : State) (rest : List Input), s.inputs = .reset :: rest →
    step s = .next { State.resetWith s.params (s.epoch + 1) (Config.resetByte (s.epoch + 1)) with
      inputs := rest, rdData := s.rdData, draws := s.draws }

/-- The invariant holds after reset, for every choice of the open parameters and of the buffer bytes, so in
State.reset. -/
def Obligations.ResetIsSound : Prop :=
  (∀ (p : Params) (n : Nat) (draw : Nat → Byte), (State.resetWith p n draw).Inv) ∧ State.reset.Inv

/-! ### Whole-machine rules -/

/-- The invariant is kept by every step, from every state that has it. -/
def Obligations.StepKeepsSoundness : Prop :=
  ∀ s t : State, s.Inv → step s = .next t → t.Inv

/-- R97: an exchange in flight ends, other than by reset, in exactly one of the listed (CODE, END_PHASE) pairs,
and END_PHASE is the phase that ended it. -/
def Obligations.ExchangeOutcomes : Prop :=
  ∀ (s t : State), s.Inv → s.busy = true → step s = .next t → t.busy = false → s.inputs.head? ≠ some .reset →
    t.done = true ∧ t.endPhase = s.phase ∧ exchangeOutcome s.endTxnEn t.code t.endPhase

/-- R81, R95, R99: an exchange in flight goes through its phases in order and repeats none: a step leaves PHASE,
moves to a successor of the table, or ends in IDLE. -/
def Obligations.PhasesFollowTheTable : Prop :=
  ∀ (s t : State), s.Inv → s.busy = true → step s = .next t →
    t.phase = s.phase ∨ t.phase = .idle ∨ t.phase ∈ s.phase.successors

/-- R25, R37, R24, R18: CSUM is written only by CHECKSUM, and the host's own registers (IN_BUF, IN_LEN, POLL_LIMIT,
SETTLE_TICKS, CTRL) only by a host WR or by reset. -/
def Obligations.WritersOfHostRegisters : Prop :=
  ∀ (s t : State), step s = .next t → s.inputs.head? ≠ some .reset →
    (t.csum ≠ s.csum → ∃ w, s.inputs.head? = some (.bus w) ∧ decode (.busWord w) = .ok .checksum) ∧
    ((∀ a v w, s.inputs.head? = some (.bus w) → decode (.busWord w) ≠ .ok (.wr a v)) →
      t.inBuf = s.inBuf ∧ t.inLen = s.inLen ∧ t.pollLimit = s.pollLimit ∧ t.settleTicks = s.settleTicks ∧
      t.endTxnEn = s.endTxnEn)

/-- R87: on the schedule in which samples that draw 0 and ticks alternate and no other agent acts, a wait takes
exactly max(POLL_LIMIT, 1) samples and then finishes with TIMEOUT. WaitCountsItsSamples is about every schedule. -/
def Obligations.WaitTimesOut : Prop :=
  ∀ (s : State) (rest : List Input) (L : Nat), L = max s.pollLimit.toNat 1 →
    (s.phase = .wait1 ∨ s.phase = .wait2) → s.sampleDue = true → s.pollCount = 0#16 →
    s.inputs = failedWait L ++ rest →
    runSteps (2 * L - 1) s = .next { s with
      inputs := rest, pollCount := BitVec.ofNat 16 L, code := .timeout, endPhase := s.phase, phase := .idle,
      busy := false, done := true, req := .none, sampleDue := false, settleCnt := 0#8 }

/-- R98: from an accepted exchange on, and from every sound state, a run counts at most (L - 1) + S + (L - 1)
ticks before BUSY = 0. -/
def Obligations.ExchangeTickBound : Prop :=
  (∀ (k : Nat) (s : State), s.Inv → ticksCounted k s ≤ s.tickBudget) ∧
  ∀ (k : Nat) (s t : State), s.Inv → s.busy = false → exec .exchange s = .next t →
    ticksCounted k t ≤
      (max s.pollLimit.toNat 1 - 1) + s.settleTicks.toNat + (max s.pollLimit.toNat 1 - 1)

/-- R87, R88, R94, R127: on any schedule a wait counts its samples and nothing else. A step that is a sample due adds
1 to POLL_COUNT; any other step but reset leaves POLL_COUNT and the wait; the exchange times out at a sample that
draws 0 and brings POLL_COUNT to max(POLL_LIMIT, 1), and at no other step; a sample that draws 0 before it stays in
the wait. So a wait in which no sample draws 1 takes exactly that many samples. -/
def Obligations.WaitCountsItsSamples : Prop :=
  ∀ (s t : State), s.Inv → (s.phase = .wait1 ∨ s.phase = .wait2) → step s = .next t →
    s.inputs.head? ≠ some .reset →
    (∀ (ready : Bool) (rest : List Input), s.inputs = .sample ready :: rest → s.sampleDue = true →
      t.pollCount.toNat = s.pollCount.toNat + 1 ∧
      (ready = true → t.busy = true ∧ t.phase ≠ s.phase) ∧
      (ready = false → t.pollCount.toNat < max s.pollLimit.toNat 1 → t.busy = true ∧ t.phase = s.phase) ∧
      (ready = false → ¬ t.pollCount.toNat < max s.pollLimit.toNat 1 →
        t.pollCount.toNat = max s.pollLimit.toNat 1 ∧ t.busy = false ∧ t.code = .timeout ∧ t.endPhase = s.phase)) ∧
    ((∀ (ready : Bool) (rest : List Input), s.inputs = .sample ready :: rest → s.sampleDue = false) →
      t.pollCount = s.pollCount ∧ t.phase = s.phase ∧ t.busy = true ∧ t.code = s.code) ∧
    t.pollLimit = s.pollLimit
end

