-- ==== Sys2Proof/Laws/Frame.lean ====
section
/-! SUPPORT. The pure functions of the codec and the buffer store: lengths, elements, and what an overlay leaves
(spec/40_codec.md, spec/41_ack.md). -/

namespace Sys2Proof.Machine

@[simp] theorem byteSum_nil : byteSum [] = 0 := rfl

@[simp] theorem byteSum_cons (b : Byte) (bs : List Byte) : byteSum (b :: bs) = b.toNat + byteSum bs := rfl

@[simp] theorem byteSum_append (xs ys : List Byte) : byteSum (xs ++ ys) = byteSum xs + byteSum ys := by
  induction xs with
  | nil => simp
  | cons x xs ih => simp [ih]; omega

@[simp] theorem checksum_toNat (s : List Byte) : (checksum s).toNat = (256 - byteSum s % 256) % 256 := by
  simp [checksum]

@[simp] theorem encodeFrame_length (p : List Byte) : (encodeFrame p).length = p.length + 6 := by
  simp [encodeFrame]

/-- The payload stands between the direction marker and DCS. -/
theorem encodeFrame_payload (p : List Byte) : ((encodeFrame p).drop 5).dropLast = p := by
  simp [encodeFrame]

/-- Two payloads with one frame are one. -/
theorem encodeFrame_injective {p q : List Byte} (h : encodeFrame p = encodeFrame q) : p = q := by
  rw [← encodeFrame_payload p, h, encodeFrame_payload]

/-- The payload of a frame is found again. -/
@[simp] theorem framePayload_encodeFrame (p : List Byte) : framePayload (encodeFrame p) = some p := by
  simp [framePayload, encodeFrame_payload]

/-- A frame with a payload is the frame of that payload. -/
theorem framePayload_eq_some {f p : List Byte} (h : framePayload f = some p) : f = encodeFrame p := by
  unfold framePayload at h
  split at h
  · rename_i hf
    rw [← Option.some.inj h, hf]
  · cases h

@[simp] theorem overlay_getElem {n : Nat} (v : Vector Byte n) (bs : List Byte) (i : Nat) (h : i < n) :
    (overlay v bs)[i] = bs.getD i v[i] := by
  simp [overlay]

/-- Beyond the bytes stored, an overlay keeps the buffer. -/
theorem overlay_getElem_of_le {n : Nat} (v : Vector Byte n) (bs : List Byte) (i : Nat) (h : i < n)
    (hb : bs.length ≤ i) : (overlay v bs)[i] = v[i] := by
  simp [List.getElem?_eq_none hb]

/-- The front of an overlay is what was stored. -/
theorem overlay_take {n : Nat} (v : Vector Byte n) (bs : List Byte) (h : bs.length ≤ n) :
    (overlay v bs).toList.take bs.length = bs := by
  apply List.ext_getElem
  · simp [h]
  · intro i h1 h2
    simp [List.getElem?_eq_getElem h2]

/-- RESP_AVAIL of a window fits the payload buffer. -/
theorem availBytes_le (raw : Vector Byte 64) (c start : Nat) : availBytes raw c start ≤ c - start :=
  Nat.min_le_right ..

@[simp] theorem declaredLength_toNat (raw : Vector Byte 64) (start : Nat) :
    (declaredLength raw start).toNat = (rawAt raw start).toNat + 4 := by
  have := (rawAt raw start).isLt
  simp [declaredLength, BitVec.toNat_add]
  omega

/-- The start offset of a layout is 2 or 4 and at least two bytes were received. -/
theorem responseLayout_eq_some {raw : Vector Byte 64} {c start : Nat} {b : Bool}
    (h : responseLayout raw c = some (start, b)) : 2 ≤ c ∧ ((start = 2 ∧ b = false) ∨ (start = 4 ∧ b = true)) := by
  unfold responseLayout at h
  split at h
  · rename_i hc
    cases h
    exact ⟨hc.1, .inl ⟨rfl, rfl⟩⟩
  · split at h
    · rename_i hc
      cases h
      exact ⟨hc.1, .inr ⟨rfl, rfl⟩⟩
    · cases h

/-- What DecodeFrame can answer: no layout, no length byte, or a window. -/
theorem decodeFrame_cases (raw : Vector Byte 64) (c : Nat) :
    (responseLayout raw c = none ∧
      decodeFrame raw c = { flags := .clear, len9 := 0#9, avail := 0#8, payload := [] }) ∨
    (∃ start b, responseLayout raw c = some (start, b) ∧ c ≤ start ∧
      decodeFrame raw c =
        { flags := { RespFlags.clear with trunc := true }, len9 := 0#9, avail := 0#8, payload := [] }) ∨
    (∃ start b, responseLayout raw c = some (start, b) ∧ start < c ∧
      decodeFrame raw c = decodeWindow raw c start b) := by
  unfold decodeFrame
  cases hl : responseLayout raw c with
  | none => exact .inl ⟨rfl, rfl⟩
  | some x =>
    obtain ⟨start, b⟩ := x
    by_cases hc : c ≤ start
    · exact .inr (.inl ⟨start, b, rfl, hc, by simp [hc]⟩)
    · exact .inr (.inr ⟨start, b, rfl, by omega, by simp [hc]⟩)

/-- A decode of a legal count never reports more than 62 bytes. -/
theorem decodeFrame_avail_le (raw : Vector Byte 64) {c : Nat} (hc : c ≤ 64) :
    (decodeFrame raw c).avail.toNat ≤ 62 := by
  obtain ⟨_, h⟩ | ⟨s, b, _, _, h⟩ | ⟨s, b, hl, hs, h⟩ := decodeFrame_cases raw c
  · rw [h]; decide
  · rw [h]; decide
  · rw [h]
    have := availBytes_le raw c s
    have := (responseLayout_eq_some hl).2
    simp only [decodeWindow, BitVec.toNat_ofNat]
    omega

/-- A decode that recognised a layout declares 4 to 259 bytes. -/
theorem decodeFrame_len9 {raw : Vector Byte 64} {c : Nat} (h : (decodeFrame raw c).flags.success = true) :
    4 ≤ (decodeFrame raw c).len9.toNat ∧ (decodeFrame raw c).len9.toNat ≤ 259 := by
  obtain ⟨_, e⟩ | ⟨s, b, _, _, e⟩ | ⟨s, b, _, _, e⟩ := decodeFrame_cases raw c
  · rw [e] at h; cases h
  · rw [e] at h; cases h
  · rw [e]
    have := (rawAt raw s).isLt
    simp only [decodeWindow, declaredLength_toNat]
    omega

/-- A decode that failed declares nothing. -/
theorem decodeFrame_failed {raw : Vector Byte 64} {c : Nat} (h : (decodeFrame raw c).flags.success = false) :
    (decodeFrame raw c).len9 = 0#9 ∧ (decodeFrame raw c).avail = 0#8 ∧
      (decodeFrame raw c).flags.layoutB = false := by
  obtain ⟨_, e⟩ | ⟨s, b, _, _, e⟩ | ⟨s, b, _, _, e⟩ := decodeFrame_cases raw c
  · rw [e]; exact ⟨rfl, rfl, rfl⟩
  · rw [e]; exact ⟨rfl, rfl, rfl⟩
  · rw [e] at h; cases h

/-- A decode reports as many payload bytes as it stores. -/
theorem decodeFrame_payload_length (raw : Vector Byte 64) {c : Nat} (hc : c ≤ 64) :
    (decodeFrame raw c).payload.length = (decodeFrame raw c).avail.toNat := by
  obtain ⟨_, h⟩ | ⟨s, b, _, _, h⟩ | ⟨s, b, hl, hs, h⟩ := decodeFrame_cases raw c
  · rw [h]; rfl
  · rw [h]; rfl
  · rw [h]
    have := availBytes_le raw c s
    simp [decodeWindow, rawSlice]
    omega

/-- The host's input as long as IN_LEN says, where IN_LEN fits IN_BUF. -/
theorem inBytes_length {s : State} (h : s.inLen.toNat ≤ 64) : s.inBytes.length = s.inLen.toNat := by
  simp [State.inBytes, h]

/-- TX_BUF after EncodeFrame starts with the frame. -/
theorem storedFrame_take {s : State} (h : s.inLen.toNat ≤ 59) :
    (overlay s.txBuf (encodeFrame s.inBytes)).toList.take (s.inLen.toNat + 6) = encodeFrame s.inBytes := by
  have hl := inBytes_length (s := s) (by omega)
  have := overlay_take s.txBuf (encodeFrame s.inBytes) (by simp [hl]; omega)
  rwa [encodeFrame_length, hl] at this

/-- RESP_FLAGS as a number: its flags weighted by their bit places (R30). -/
theorem respFlags_toNat (f : RespFlags) :
    f.toByte.toNat = f.success.toNat + 2 * f.layoutB.toNat + 4 * f.trunc.toNat + 8 * f.lcsOk.toNat
      + 16 * f.dcsOk.toNat := by
  obtain ⟨a, b, c, d, e⟩ := f
  cases a <;> cases b <;> cases c <;> cases d <;> cases e <;> rfl

/-- ACK_RESULT as a number (R28). -/
theorem ackResult_toNat (a : AckResult) :
    a.toByte.toNat = a.matched.toNat + 2 * a.long.toNat + 4 * a.short.toNat := by
  obtain ⟨x, y, z⟩ := a
  cases x <;> cases y <;> cases z <;> rfl

/-- The two registers of a 9-bit value hold it (R31). -/
theorem halves9 (x : BitVec 9) :
    (x.extractLsb' 0 8).toNat + 256 * ((x.extractLsb' 8 1).setWidth 8).toNat = x.toNat := by
  have := x.isLt
  simp [BitVec.extractLsb'_toNat]
  omega

/-- The two registers of a 16-bit value hold it (R33, R36). -/
theorem halves16 (x : BitVec 16) :
    (x.extractLsb' 0 8).toNat + 256 * (x.extractLsb' 8 8).toNat = x.toNat := by
  have := x.isLt
  simp [BitVec.extractLsb'_toNat]
  omega

end Sys2Proof.Machine
end

