-- ==== Sys2Proof/Laws/State.lean ====
section
/-! SUPPORT. One lemma per field per update: what each state update of Machine/Ops.lean leaves in each field, true
by rfl, so that no later proof unfolds a record update. -/

namespace Sys2Proof.Machine

/-! ### State.resetWith -/

@[simp] theorem resetWith_cmd (p : Params) (n : Nat) (draw : Nat → Byte) :
    (State.resetWith p n draw).cmd = 0#8 := rfl
@[simp] theorem resetWith_busy (p : Params) (n : Nat) (draw : Nat → Byte) :
    (State.resetWith p n draw).busy = false := rfl
@[simp] theorem resetWith_done (p : Params) (n : Nat) (draw : Nat → Byte) :
    (State.resetWith p n draw).done = false := rfl
@[simp] theorem resetWith_rej (p : Params) (n : Nat) (draw : Nat → Byte) :
    (State.resetWith p n draw).rej = false := rfl
@[simp] theorem resetWith_code (p : Params) (n : Nat) (draw : Nat → Byte) :
    (State.resetWith p n draw).code = .ok := rfl
@[simp] theorem resetWith_phase (p : Params) (n : Nat) (draw : Nat → Byte) :
    (State.resetWith p n draw).phase = .idle := rfl
@[simp] theorem resetWith_endPhase (p : Params) (n : Nat) (draw : Nat → Byte) :
    (State.resetWith p n draw).endPhase = .idle := rfl
@[simp] theorem resetWith_inLen (p : Params) (n : Nat) (draw : Nat → Byte) :
    (State.resetWith p n draw).inLen = 0#8 := rfl
@[simp] theorem resetWith_csum (p : Params) (n : Nat) (draw : Nat → Byte) :
    (State.resetWith p n draw).csum = 0#8 := rfl
@[simp] theorem resetWith_txLen (p : Params) (n : Nat) (draw : Nat → Byte) :
    (State.resetWith p n draw).txLen = 0#8 := rfl
@[simp] theorem resetWith_ackCount (p : Params) (n : Nat) (draw : Nat → Byte) :
    (State.resetWith p n draw).ackCount = 0#8 := rfl
@[simp] theorem resetWith_ackResult (p : Params) (n : Nat) (draw : Nat → Byte) :
    (State.resetWith p n draw).ackResult = .clear := rfl
@[simp] theorem resetWith_rxCount (p : Params) (n : Nat) (draw : Nat → Byte) :
    (State.resetWith p n draw).rxCount = 0#8 := rfl
@[simp] theorem resetWith_respFlags (p : Params) (n : Nat) (draw : Nat → Byte) :
    (State.resetWith p n draw).respFlags = .clear := rfl
@[simp] theorem resetWith_respLen (p : Params) (n : Nat) (draw : Nat → Byte) :
    (State.resetWith p n draw).respLen = 0#9 := rfl
@[simp] theorem resetWith_respAvail (p : Params) (n : Nat) (draw : Nat → Byte) :
    (State.resetWith p n draw).respAvail = 0#8 := rfl
@[simp] theorem resetWith_pollLimit (p : Params) (n : Nat) (draw : Nat → Byte) :
    (State.resetWith p n draw).pollLimit = p.pollLimitReset := rfl
@[simp] theorem resetWith_settleTicks (p : Params) (n : Nat) (draw : Nat → Byte) :
    (State.resetWith p n draw).settleTicks = 1#8 := rfl
@[simp] theorem resetWith_endTxnEn (p : Params) (n : Nat) (draw : Nat → Byte) :
    (State.resetWith p n draw).endTxnEn = p.needsRelease := rfl
@[simp] theorem resetWith_pollCount (p : Params) (n : Nat) (draw : Nat → Byte) :
    (State.resetWith p n draw).pollCount = 0#16 := rfl
@[simp] theorem resetWith_inBuf (p : Params) (n : Nat) (draw : Nat → Byte) :
    (State.resetWith p n draw).inBuf = Vector.ofFn fun i => draw (0x020 + i.val) := rfl
@[simp] theorem resetWith_txBuf (p : Params) (n : Nat) (draw : Nat → Byte) :
    (State.resetWith p n draw).txBuf = Vector.ofFn fun i => draw (0x060 + i.val) := rfl
@[simp] theorem resetWith_ackBuf (p : Params) (n : Nat) (draw : Nat → Byte) :
    (State.resetWith p n draw).ackBuf = Vector.ofFn fun i => draw (0x0A8 + i.val) := rfl
@[simp] theorem resetWith_rxBuf (p : Params) (n : Nat) (draw : Nat → Byte) :
    (State.resetWith p n draw).rxBuf = Vector.ofFn fun i => draw (0x0B0 + i.val) := rfl
@[simp] theorem resetWith_payload (p : Params) (n : Nat) (draw : Nat → Byte) :
    (State.resetWith p n draw).payload = Vector.ofFn fun i => draw (0x100 + i.val) := rfl
@[simp] theorem resetWith_req (p : Params) (n : Nat) (draw : Nat → Byte) :
    (State.resetWith p n draw).req = .none := rfl
@[simp] theorem resetWith_sampleDue (p : Params) (n : Nat) (draw : Nat → Byte) :
    (State.resetWith p n draw).sampleDue = false := rfl
@[simp] theorem resetWith_settleCnt (p : Params) (n : Nat) (draw : Nat → Byte) :
    (State.resetWith p n draw).settleCnt = 0#8 := rfl
@[simp] theorem resetWith_inputs (p : Params) (n : Nat) (draw : Nat → Byte) :
    (State.resetWith p n draw).inputs = [] := rfl
@[simp] theorem resetWith_rdData (p : Params) (n : Nat) (draw : Nat → Byte) :
    (State.resetWith p n draw).rdData = 0#8 := rfl
@[simp] theorem resetWith_draws (p : Params) (n : Nat) (draw : Nat → Byte) :
    (State.resetWith p n draw).draws = 0 := rfl
@[simp] theorem resetWith_epoch (p : Params) (n : Nat) (draw : Nat → Byte) :
    (State.resetWith p n draw).epoch = n := rfl
@[simp] theorem resetWith_params (p : Params) (n : Nat) (draw : Nat → Byte) :
    (State.resetWith p n draw).params = p := rfl

/-! ### finish -/

@[simp] theorem finish_cmd (c : Completion) (s : State) : (finish c s).cmd = s.cmd := rfl
@[simp] theorem finish_busy (c : Completion) (s : State) : (finish c s).busy = false := rfl
@[simp] theorem finish_done (c : Completion) (s : State) : (finish c s).done = true := rfl
@[simp] theorem finish_rej (c : Completion) (s : State) : (finish c s).rej = s.rej := rfl
@[simp] theorem finish_code (c : Completion) (s : State) : (finish c s).code = c := rfl
@[simp] theorem finish_phase (c : Completion) (s : State) : (finish c s).phase = .idle := rfl
@[simp] theorem finish_endPhase (c : Completion) (s : State) : (finish c s).endPhase = s.phase := rfl
@[simp] theorem finish_inLen (c : Completion) (s : State) : (finish c s).inLen = s.inLen := rfl
@[simp] theorem finish_csum (c : Completion) (s : State) : (finish c s).csum = s.csum := rfl
@[simp] theorem finish_txLen (c : Completion) (s : State) : (finish c s).txLen = s.txLen := rfl
@[simp] theorem finish_ackCount (c : Completion) (s : State) : (finish c s).ackCount = s.ackCount := rfl
@[simp] theorem finish_ackResult (c : Completion) (s : State) : (finish c s).ackResult = s.ackResult := rfl
@[simp] theorem finish_rxCount (c : Completion) (s : State) : (finish c s).rxCount = s.rxCount := rfl
@[simp] theorem finish_respFlags (c : Completion) (s : State) : (finish c s).respFlags = s.respFlags := rfl
@[simp] theorem finish_respLen (c : Completion) (s : State) : (finish c s).respLen = s.respLen := rfl
@[simp] theorem finish_respAvail (c : Completion) (s : State) : (finish c s).respAvail = s.respAvail := rfl
@[simp] theorem finish_pollLimit (c : Completion) (s : State) : (finish c s).pollLimit = s.pollLimit := rfl
@[simp] theorem finish_settleTicks (c : Completion) (s : State) : (finish c s).settleTicks = s.settleTicks := rfl
@[simp] theorem finish_endTxnEn (c : Completion) (s : State) : (finish c s).endTxnEn = s.endTxnEn := rfl
@[simp] theorem finish_pollCount (c : Completion) (s : State) : (finish c s).pollCount = s.pollCount := rfl
@[simp] theorem finish_inBuf (c : Completion) (s : State) : (finish c s).inBuf = s.inBuf := rfl
@[simp] theorem finish_txBuf (c : Completion) (s : State) : (finish c s).txBuf = s.txBuf := rfl
@[simp] theorem finish_ackBuf (c : Completion) (s : State) : (finish c s).ackBuf = s.ackBuf := rfl
@[simp] theorem finish_rxBuf (c : Completion) (s : State) : (finish c s).rxBuf = s.rxBuf := rfl
@[simp] theorem finish_payload (c : Completion) (s : State) : (finish c s).payload = s.payload := rfl
@[simp] theorem finish_req (c : Completion) (s : State) : (finish c s).req = .none := rfl
@[simp] theorem finish_sampleDue (c : Completion) (s : State) : (finish c s).sampleDue = false := rfl
@[simp] theorem finish_settleCnt (c : Completion) (s : State) : (finish c s).settleCnt = 0#8 := rfl
@[simp] theorem finish_inputs (c : Completion) (s : State) : (finish c s).inputs = s.inputs := rfl
@[simp] theorem finish_rdData (c : Completion) (s : State) : (finish c s).rdData = s.rdData := rfl
@[simp] theorem finish_draws (c : Completion) (s : State) : (finish c s).draws = s.draws := rfl
@[simp] theorem finish_epoch (c : Completion) (s : State) : (finish c s).epoch = s.epoch := rfl
@[simp] theorem finish_params (c : Completion) (s : State) : (finish c s).params = s.params := rfl

/-! ### beginCommand -/

@[simp] theorem beginCommand_cmd (v : Byte) (s : State) : (beginCommand v s).cmd = v := rfl
@[simp] theorem beginCommand_busy (v : Byte) (s : State) : (beginCommand v s).busy = s.busy := rfl
@[simp] theorem beginCommand_done (v : Byte) (s : State) : (beginCommand v s).done = false := rfl
@[simp] theorem beginCommand_rej (v : Byte) (s : State) : (beginCommand v s).rej = false := rfl
@[simp] theorem beginCommand_code (v : Byte) (s : State) : (beginCommand v s).code = .ok := rfl
@[simp] theorem beginCommand_phase (v : Byte) (s : State) : (beginCommand v s).phase = s.phase := rfl
@[simp] theorem beginCommand_endPhase (v : Byte) (s : State) : (beginCommand v s).endPhase = s.endPhase := rfl
@[simp] theorem beginCommand_inLen (v : Byte) (s : State) : (beginCommand v s).inLen = s.inLen := rfl
@[simp] theorem beginCommand_csum (v : Byte) (s : State) : (beginCommand v s).csum = s.csum := rfl
@[simp] theorem beginCommand_txLen (v : Byte) (s : State) : (beginCommand v s).txLen = s.txLen := rfl
@[simp] theorem beginCommand_ackCount (v : Byte) (s : State) : (beginCommand v s).ackCount = s.ackCount := rfl
@[simp] theorem beginCommand_ackResult (v : Byte) (s : State) : (beginCommand v s).ackResult = s.ackResult := rfl
@[simp] theorem beginCommand_rxCount (v : Byte) (s : State) : (beginCommand v s).rxCount = s.rxCount := rfl
@[simp] theorem beginCommand_respFlags (v : Byte) (s : State) : (beginCommand v s).respFlags = s.respFlags := rfl
@[simp] theorem beginCommand_respLen (v : Byte) (s : State) : (beginCommand v s).respLen = s.respLen := rfl
@[simp] theorem beginCommand_respAvail (v : Byte) (s : State) : (beginCommand v s).respAvail = s.respAvail := rfl
@[simp] theorem beginCommand_pollLimit (v : Byte) (s : State) : (beginCommand v s).pollLimit = s.pollLimit := rfl
@[simp] theorem beginCommand_settleTicks (v : Byte) (s : State) : (beginCommand v s).settleTicks = s.settleTicks := rfl
@[simp] theorem beginCommand_endTxnEn (v : Byte) (s : State) : (beginCommand v s).endTxnEn = s.endTxnEn := rfl
@[simp] theorem beginCommand_pollCount (v : Byte) (s : State) : (beginCommand v s).pollCount = s.pollCount := rfl
@[simp] theorem beginCommand_inBuf (v : Byte) (s : State) : (beginCommand v s).inBuf = s.inBuf := rfl
@[simp] theorem beginCommand_txBuf (v : Byte) (s : State) : (beginCommand v s).txBuf = s.txBuf := rfl
@[simp] theorem beginCommand_ackBuf (v : Byte) (s : State) : (beginCommand v s).ackBuf = s.ackBuf := rfl
@[simp] theorem beginCommand_rxBuf (v : Byte) (s : State) : (beginCommand v s).rxBuf = s.rxBuf := rfl
@[simp] theorem beginCommand_payload (v : Byte) (s : State) : (beginCommand v s).payload = s.payload := rfl
@[simp] theorem beginCommand_req (v : Byte) (s : State) : (beginCommand v s).req = s.req := rfl
@[simp] theorem beginCommand_sampleDue (v : Byte) (s : State) : (beginCommand v s).sampleDue = s.sampleDue := rfl
@[simp] theorem beginCommand_settleCnt (v : Byte) (s : State) : (beginCommand v s).settleCnt = s.settleCnt := rfl
@[simp] theorem beginCommand_inputs (v : Byte) (s : State) : (beginCommand v s).inputs = s.inputs := rfl
@[simp] theorem beginCommand_rdData (v : Byte) (s : State) : (beginCommand v s).rdData = s.rdData := rfl
@[simp] theorem beginCommand_draws (v : Byte) (s : State) : (beginCommand v s).draws = s.draws := rfl
@[simp] theorem beginCommand_epoch (v : Byte) (s : State) : (beginCommand v s).epoch = s.epoch := rfl
@[simp] theorem beginCommand_params (v : Byte) (s : State) : (beginCommand v s).params = s.params := rfl

/-! ### rejectWrite -/

@[simp] theorem rejectWrite_cmd (s : State) : (rejectWrite s).cmd = s.cmd := rfl
@[simp] theorem rejectWrite_busy (s : State) : (rejectWrite s).busy = s.busy := rfl
@[simp] theorem rejectWrite_done (s : State) : (rejectWrite s).done = s.done := rfl
@[simp] theorem rejectWrite_rej (s : State) : (rejectWrite s).rej = true := rfl
@[simp] theorem rejectWrite_code (s : State) : (rejectWrite s).code = s.code := rfl
@[simp] theorem rejectWrite_phase (s : State) : (rejectWrite s).phase = s.phase := rfl
@[simp] theorem rejectWrite_endPhase (s : State) : (rejectWrite s).endPhase = s.endPhase := rfl
@[simp] theorem rejectWrite_inLen (s : State) : (rejectWrite s).inLen = s.inLen := rfl
@[simp] theorem rejectWrite_csum (s : State) : (rejectWrite s).csum = s.csum := rfl
@[simp] theorem rejectWrite_txLen (s : State) : (rejectWrite s).txLen = s.txLen := rfl
@[simp] theorem rejectWrite_ackCount (s : State) : (rejectWrite s).ackCount = s.ackCount := rfl
@[simp] theorem rejectWrite_ackResult (s : State) : (rejectWrite s).ackResult = s.ackResult := rfl
@[simp] theorem rejectWrite_rxCount (s : State) : (rejectWrite s).rxCount = s.rxCount := rfl
@[simp] theorem rejectWrite_respFlags (s : State) : (rejectWrite s).respFlags = s.respFlags := rfl
@[simp] theorem rejectWrite_respLen (s : State) : (rejectWrite s).respLen = s.respLen := rfl
@[simp] theorem rejectWrite_respAvail (s : State) : (rejectWrite s).respAvail = s.respAvail := rfl
@[simp] theorem rejectWrite_pollLimit (s : State) : (rejectWrite s).pollLimit = s.pollLimit := rfl
@[simp] theorem rejectWrite_settleTicks (s : State) : (rejectWrite s).settleTicks = s.settleTicks := rfl
@[simp] theorem rejectWrite_endTxnEn (s : State) : (rejectWrite s).endTxnEn = s.endTxnEn := rfl
@[simp] theorem rejectWrite_pollCount (s : State) : (rejectWrite s).pollCount = s.pollCount := rfl
@[simp] theorem rejectWrite_inBuf (s : State) : (rejectWrite s).inBuf = s.inBuf := rfl
@[simp] theorem rejectWrite_txBuf (s : State) : (rejectWrite s).txBuf = s.txBuf := rfl
@[simp] theorem rejectWrite_ackBuf (s : State) : (rejectWrite s).ackBuf = s.ackBuf := rfl
@[simp] theorem rejectWrite_rxBuf (s : State) : (rejectWrite s).rxBuf = s.rxBuf := rfl
@[simp] theorem rejectWrite_payload (s : State) : (rejectWrite s).payload = s.payload := rfl
@[simp] theorem rejectWrite_req (s : State) : (rejectWrite s).req = s.req := rfl
@[simp] theorem rejectWrite_sampleDue (s : State) : (rejectWrite s).sampleDue = s.sampleDue := rfl
@[simp] theorem rejectWrite_settleCnt (s : State) : (rejectWrite s).settleCnt = s.settleCnt := rfl
@[simp] theorem rejectWrite_inputs (s : State) : (rejectWrite s).inputs = s.inputs := rfl
@[simp] theorem rejectWrite_rdData (s : State) : (rejectWrite s).rdData = s.rdData := rfl
@[simp] theorem rejectWrite_draws (s : State) : (rejectWrite s).draws = s.draws := rfl
@[simp] theorem rejectWrite_epoch (s : State) : (rejectWrite s).epoch = s.epoch := rfl
@[simp] theorem rejectWrite_params (s : State) : (rejectWrite s).params = s.params := rfl

/-! ### enterIssue -/

@[simp] theorem enterIssue_cmd (p : Phase) (r : Req) (s : State) : (enterIssue p r s).cmd = s.cmd := rfl
@[simp] theorem enterIssue_busy (p : Phase) (r : Req) (s : State) : (enterIssue p r s).busy = s.busy := rfl
@[simp] theorem enterIssue_done (p : Phase) (r : Req) (s : State) : (enterIssue p r s).done = s.done := rfl
@[simp] theorem enterIssue_rej (p : Phase) (r : Req) (s : State) : (enterIssue p r s).rej = s.rej := rfl
@[simp] theorem enterIssue_code (p : Phase) (r : Req) (s : State) : (enterIssue p r s).code = s.code := rfl
@[simp] theorem enterIssue_phase (p : Phase) (r : Req) (s : State) : (enterIssue p r s).phase = p := rfl
@[simp] theorem enterIssue_endPhase (p : Phase) (r : Req) (s : State) : (enterIssue p r s).endPhase = s.endPhase := rfl
@[simp] theorem enterIssue_inLen (p : Phase) (r : Req) (s : State) : (enterIssue p r s).inLen = s.inLen := rfl
@[simp] theorem enterIssue_csum (p : Phase) (r : Req) (s : State) : (enterIssue p r s).csum = s.csum := rfl
@[simp] theorem enterIssue_txLen (p : Phase) (r : Req) (s : State) : (enterIssue p r s).txLen = s.txLen := rfl
@[simp] theorem enterIssue_ackCount (p : Phase) (r : Req) (s : State) : (enterIssue p r s).ackCount = s.ackCount := rfl
@[simp] theorem enterIssue_ackResult (p : Phase) (r : Req) (s : State) : (enterIssue p r s).ackResult = s.ackResult := rfl
@[simp] theorem enterIssue_rxCount (p : Phase) (r : Req) (s : State) : (enterIssue p r s).rxCount = s.rxCount := rfl
@[simp] theorem enterIssue_respFlags (p : Phase) (r : Req) (s : State) : (enterIssue p r s).respFlags = s.respFlags := rfl
@[simp] theorem enterIssue_respLen (p : Phase) (r : Req) (s : State) : (enterIssue p r s).respLen = s.respLen := rfl
@[simp] theorem enterIssue_respAvail (p : Phase) (r : Req) (s : State) : (enterIssue p r s).respAvail = s.respAvail := rfl
@[simp] theorem enterIssue_pollLimit (p : Phase) (r : Req) (s : State) : (enterIssue p r s).pollLimit = s.pollLimit := rfl
@[simp] theorem enterIssue_settleTicks (p : Phase) (r : Req) (s : State) : (enterIssue p r s).settleTicks = s.settleTicks := rfl
@[simp] theorem enterIssue_endTxnEn (p : Phase) (r : Req) (s : State) : (enterIssue p r s).endTxnEn = s.endTxnEn := rfl
@[simp] theorem enterIssue_pollCount (p : Phase) (r : Req) (s : State) : (enterIssue p r s).pollCount = s.pollCount := rfl
@[simp] theorem enterIssue_inBuf (p : Phase) (r : Req) (s : State) : (enterIssue p r s).inBuf = s.inBuf := rfl
@[simp] theorem enterIssue_txBuf (p : Phase) (r : Req) (s : State) : (enterIssue p r s).txBuf = s.txBuf := rfl
@[simp] theorem enterIssue_ackBuf (p : Phase) (r : Req) (s : State) : (enterIssue p r s).ackBuf = s.ackBuf := rfl
@[simp] theorem enterIssue_rxBuf (p : Phase) (r : Req) (s : State) : (enterIssue p r s).rxBuf = s.rxBuf := rfl
@[simp] theorem enterIssue_payload (p : Phase) (r : Req) (s : State) : (enterIssue p r s).payload = s.payload := rfl
@[simp] theorem enterIssue_req (p : Phase) (r : Req) (s : State) : (enterIssue p r s).req = r := rfl
@[simp] theorem enterIssue_sampleDue (p : Phase) (r : Req) (s : State) : (enterIssue p r s).sampleDue = s.sampleDue := rfl
@[simp] theorem enterIssue_settleCnt (p : Phase) (r : Req) (s : State) : (enterIssue p r s).settleCnt = s.settleCnt := rfl
@[simp] theorem enterIssue_inputs (p : Phase) (r : Req) (s : State) : (enterIssue p r s).inputs = s.inputs := rfl
@[simp] theorem enterIssue_rdData (p : Phase) (r : Req) (s : State) : (enterIssue p r s).rdData = s.rdData := rfl
@[simp] theorem enterIssue_draws (p : Phase) (r : Req) (s : State) : (enterIssue p r s).draws = s.draws := rfl
@[simp] theorem enterIssue_epoch (p : Phase) (r : Req) (s : State) : (enterIssue p r s).epoch = s.epoch := rfl
@[simp] theorem enterIssue_params (p : Phase) (r : Req) (s : State) : (enterIssue p r s).params = s.params := rfl

/-! ### enterWait -/

@[simp] theorem enterWait_cmd (p : Phase) (s : State) : (enterWait p s).cmd = s.cmd := rfl
@[simp] theorem enterWait_busy (p : Phase) (s : State) : (enterWait p s).busy = s.busy := rfl
@[simp] theorem enterWait_done (p : Phase) (s : State) : (enterWait p s).done = s.done := rfl
@[simp] theorem enterWait_rej (p : Phase) (s : State) : (enterWait p s).rej = s.rej := rfl
@[simp] theorem enterWait_code (p : Phase) (s : State) : (enterWait p s).code = s.code := rfl
@[simp] theorem enterWait_phase (p : Phase) (s : State) : (enterWait p s).phase = p := rfl
@[simp] theorem enterWait_endPhase (p : Phase) (s : State) : (enterWait p s).endPhase = s.endPhase := rfl
@[simp] theorem enterWait_inLen (p : Phase) (s : State) : (enterWait p s).inLen = s.inLen := rfl
@[simp] theorem enterWait_csum (p : Phase) (s : State) : (enterWait p s).csum = s.csum := rfl
@[simp] theorem enterWait_txLen (p : Phase) (s : State) : (enterWait p s).txLen = s.txLen := rfl
@[simp] theorem enterWait_ackCount (p : Phase) (s : State) : (enterWait p s).ackCount = s.ackCount := rfl
@[simp] theorem enterWait_ackResult (p : Phase) (s : State) : (enterWait p s).ackResult = s.ackResult := rfl
@[simp] theorem enterWait_rxCount (p : Phase) (s : State) : (enterWait p s).rxCount = s.rxCount := rfl
@[simp] theorem enterWait_respFlags (p : Phase) (s : State) : (enterWait p s).respFlags = s.respFlags := rfl
@[simp] theorem enterWait_respLen (p : Phase) (s : State) : (enterWait p s).respLen = s.respLen := rfl
@[simp] theorem enterWait_respAvail (p : Phase) (s : State) : (enterWait p s).respAvail = s.respAvail := rfl
@[simp] theorem enterWait_pollLimit (p : Phase) (s : State) : (enterWait p s).pollLimit = s.pollLimit := rfl
@[simp] theorem enterWait_settleTicks (p : Phase) (s : State) : (enterWait p s).settleTicks = s.settleTicks := rfl
@[simp] theorem enterWait_endTxnEn (p : Phase) (s : State) : (enterWait p s).endTxnEn = s.endTxnEn := rfl
@[simp] theorem enterWait_pollCount (p : Phase) (s : State) : (enterWait p s).pollCount = 0#16 := rfl
@[simp] theorem enterWait_inBuf (p : Phase) (s : State) : (enterWait p s).inBuf = s.inBuf := rfl
@[simp] theorem enterWait_txBuf (p : Phase) (s : State) : (enterWait p s).txBuf = s.txBuf := rfl
@[simp] theorem enterWait_ackBuf (p : Phase) (s : State) : (enterWait p s).ackBuf = s.ackBuf := rfl
@[simp] theorem enterWait_rxBuf (p : Phase) (s : State) : (enterWait p s).rxBuf = s.rxBuf := rfl
@[simp] theorem enterWait_payload (p : Phase) (s : State) : (enterWait p s).payload = s.payload := rfl
@[simp] theorem enterWait_req (p : Phase) (s : State) : (enterWait p s).req = .none := rfl
@[simp] theorem enterWait_sampleDue (p : Phase) (s : State) : (enterWait p s).sampleDue = true := rfl
@[simp] theorem enterWait_settleCnt (p : Phase) (s : State) : (enterWait p s).settleCnt = s.settleCnt := rfl
@[simp] theorem enterWait_inputs (p : Phase) (s : State) : (enterWait p s).inputs = s.inputs := rfl
@[simp] theorem enterWait_rdData (p : Phase) (s : State) : (enterWait p s).rdData = s.rdData := rfl
@[simp] theorem enterWait_draws (p : Phase) (s : State) : (enterWait p s).draws = s.draws := rfl
@[simp] theorem enterWait_epoch (p : Phase) (s : State) : (enterWait p s).epoch = s.epoch := rfl
@[simp] theorem enterWait_params (p : Phase) (s : State) : (enterWait p s).params = s.params := rfl

/-! ### startSettle -/

@[simp] theorem startSettle_cmd (s : State) : (startSettle s).cmd = s.cmd := rfl
@[simp] theorem startSettle_busy (s : State) : (startSettle s).busy = s.busy := rfl
@[simp] theorem startSettle_done (s : State) : (startSettle s).done = s.done := rfl
@[simp] theorem startSettle_rej (s : State) : (startSettle s).rej = s.rej := rfl
@[simp] theorem startSettle_code (s : State) : (startSettle s).code = s.code := rfl
@[simp] theorem startSettle_phase (s : State) : (startSettle s).phase = .settle := rfl
@[simp] theorem startSettle_endPhase (s : State) : (startSettle s).endPhase = s.endPhase := rfl
@[simp] theorem startSettle_inLen (s : State) : (startSettle s).inLen = s.inLen := rfl
@[simp] theorem startSettle_csum (s : State) : (startSettle s).csum = s.csum := rfl
@[simp] theorem startSettle_txLen (s : State) : (startSettle s).txLen = s.txLen := rfl
@[simp] theorem startSettle_ackCount (s : State) : (startSettle s).ackCount = s.ackCount := rfl
@[simp] theorem startSettle_ackResult (s : State) : (startSettle s).ackResult = s.ackResult := rfl
@[simp] theorem startSettle_rxCount (s : State) : (startSettle s).rxCount = s.rxCount := rfl
@[simp] theorem startSettle_respFlags (s : State) : (startSettle s).respFlags = s.respFlags := rfl
@[simp] theorem startSettle_respLen (s : State) : (startSettle s).respLen = s.respLen := rfl
@[simp] theorem startSettle_respAvail (s : State) : (startSettle s).respAvail = s.respAvail := rfl
@[simp] theorem startSettle_pollLimit (s : State) : (startSettle s).pollLimit = s.pollLimit := rfl
@[simp] theorem startSettle_settleTicks (s : State) : (startSettle s).settleTicks = s.settleTicks := rfl
@[simp] theorem startSettle_endTxnEn (s : State) : (startSettle s).endTxnEn = s.endTxnEn := rfl
@[simp] theorem startSettle_pollCount (s : State) : (startSettle s).pollCount = s.pollCount := rfl
@[simp] theorem startSettle_inBuf (s : State) : (startSettle s).inBuf = s.inBuf := rfl
@[simp] theorem startSettle_txBuf (s : State) : (startSettle s).txBuf = s.txBuf := rfl
@[simp] theorem startSettle_ackBuf (s : State) : (startSettle s).ackBuf = s.ackBuf := rfl
@[simp] theorem startSettle_rxBuf (s : State) : (startSettle s).rxBuf = s.rxBuf := rfl
@[simp] theorem startSettle_payload (s : State) : (startSettle s).payload = s.payload := rfl
@[simp] theorem startSettle_req (s : State) : (startSettle s).req = s.req := rfl
@[simp] theorem startSettle_sampleDue (s : State) : (startSettle s).sampleDue = s.sampleDue := rfl
@[simp] theorem startSettle_settleCnt (s : State) : (startSettle s).settleCnt = 0#8 := rfl
@[simp] theorem startSettle_inputs (s : State) : (startSettle s).inputs = s.inputs := rfl
@[simp] theorem startSettle_rdData (s : State) : (startSettle s).rdData = s.rdData := rfl
@[simp] theorem startSettle_draws (s : State) : (startSettle s).draws = s.draws := rfl
@[simp] theorem startSettle_epoch (s : State) : (startSettle s).epoch = s.epoch := rfl
@[simp] theorem startSettle_params (s : State) : (startSettle s).params = s.params := rfl

/-! ### storeFrame -/

@[simp] theorem storeFrame_cmd (s : State) : (storeFrame s).cmd = s.cmd := rfl
@[simp] theorem storeFrame_busy (s : State) : (storeFrame s).busy = s.busy := rfl
@[simp] theorem storeFrame_done (s : State) : (storeFrame s).done = s.done := rfl
@[simp] theorem storeFrame_rej (s : State) : (storeFrame s).rej = s.rej := rfl
@[simp] theorem storeFrame_code (s : State) : (storeFrame s).code = s.code := rfl
@[simp] theorem storeFrame_phase (s : State) : (storeFrame s).phase = s.phase := rfl
@[simp] theorem storeFrame_endPhase (s : State) : (storeFrame s).endPhase = s.endPhase := rfl
@[simp] theorem storeFrame_inLen (s : State) : (storeFrame s).inLen = s.inLen := rfl
@[simp] theorem storeFrame_csum (s : State) : (storeFrame s).csum = s.csum := rfl
@[simp] theorem storeFrame_txLen (s : State) : (storeFrame s).txLen = BitVec.ofNat 8 (encodeFrame s.inBytes).length := rfl
@[simp] theorem storeFrame_ackCount (s : State) : (storeFrame s).ackCount = s.ackCount := rfl
@[simp] theorem storeFrame_ackResult (s : State) : (storeFrame s).ackResult = s.ackResult := rfl
@[simp] theorem storeFrame_rxCount (s : State) : (storeFrame s).rxCount = s.rxCount := rfl
@[simp] theorem storeFrame_respFlags (s : State) : (storeFrame s).respFlags = s.respFlags := rfl
@[simp] theorem storeFrame_respLen (s : State) : (storeFrame s).respLen = s.respLen := rfl
@[simp] theorem storeFrame_respAvail (s : State) : (storeFrame s).respAvail = s.respAvail := rfl
@[simp] theorem storeFrame_pollLimit (s : State) : (storeFrame s).pollLimit = s.pollLimit := rfl
@[simp] theorem storeFrame_settleTicks (s : State) : (storeFrame s).settleTicks = s.settleTicks := rfl
@[simp] theorem storeFrame_endTxnEn (s : State) : (storeFrame s).endTxnEn = s.endTxnEn := rfl
@[simp] theorem storeFrame_pollCount (s : State) : (storeFrame s).pollCount = s.pollCount := rfl
@[simp] theorem storeFrame_inBuf (s : State) : (storeFrame s).inBuf = s.inBuf := rfl
@[simp] theorem storeFrame_txBuf (s : State) : (storeFrame s).txBuf = overlay s.txBuf (encodeFrame s.inBytes) := rfl
@[simp] theorem storeFrame_ackBuf (s : State) : (storeFrame s).ackBuf = s.ackBuf := rfl
@[simp] theorem storeFrame_rxBuf (s : State) : (storeFrame s).rxBuf = s.rxBuf := rfl
@[simp] theorem storeFrame_payload (s : State) : (storeFrame s).payload = s.payload := rfl
@[simp] theorem storeFrame_req (s : State) : (storeFrame s).req = s.req := rfl
@[simp] theorem storeFrame_sampleDue (s : State) : (storeFrame s).sampleDue = s.sampleDue := rfl
@[simp] theorem storeFrame_settleCnt (s : State) : (storeFrame s).settleCnt = s.settleCnt := rfl
@[simp] theorem storeFrame_inputs (s : State) : (storeFrame s).inputs = s.inputs := rfl
@[simp] theorem storeFrame_rdData (s : State) : (storeFrame s).rdData = s.rdData := rfl
@[simp] theorem storeFrame_draws (s : State) : (storeFrame s).draws = s.draws := rfl
@[simp] theorem storeFrame_epoch (s : State) : (storeFrame s).epoch = s.epoch := rfl
@[simp] theorem storeFrame_params (s : State) : (storeFrame s).params = s.params := rfl

/-! ### clearResults -/

@[simp] theorem clearResults_cmd (s : State) : (clearResults s).cmd = s.cmd := rfl
@[simp] theorem clearResults_busy (s : State) : (clearResults s).busy = s.busy := rfl
@[simp] theorem clearResults_done (s : State) : (clearResults s).done = s.done := rfl
@[simp] theorem clearResults_rej (s : State) : (clearResults s).rej = s.rej := rfl
@[simp] theorem clearResults_code (s : State) : (clearResults s).code = s.code := rfl
@[simp] theorem clearResults_phase (s : State) : (clearResults s).phase = s.phase := rfl
@[simp] theorem clearResults_endPhase (s : State) : (clearResults s).endPhase = s.endPhase := rfl
@[simp] theorem clearResults_inLen (s : State) : (clearResults s).inLen = s.inLen := rfl
@[simp] theorem clearResults_csum (s : State) : (clearResults s).csum = s.csum := rfl
@[simp] theorem clearResults_txLen (s : State) : (clearResults s).txLen = s.txLen := rfl
@[simp] theorem clearResults_ackCount (s : State) : (clearResults s).ackCount = 0#8 := rfl
@[simp] theorem clearResults_ackResult (s : State) : (clearResults s).ackResult = .clear := rfl
@[simp] theorem clearResults_rxCount (s : State) : (clearResults s).rxCount = 0#8 := rfl
@[simp] theorem clearResults_respFlags (s : State) : (clearResults s).respFlags = .clear := rfl
@[simp] theorem clearResults_respLen (s : State) : (clearResults s).respLen = 0#9 := rfl
@[simp] theorem clearResults_respAvail (s : State) : (clearResults s).respAvail = 0#8 := rfl
@[simp] theorem clearResults_pollLimit (s : State) : (clearResults s).pollLimit = s.pollLimit := rfl
@[simp] theorem clearResults_settleTicks (s : State) : (clearResults s).settleTicks = s.settleTicks := rfl
@[simp] theorem clearResults_endTxnEn (s : State) : (clearResults s).endTxnEn = s.endTxnEn := rfl
@[simp] theorem clearResults_pollCount (s : State) : (clearResults s).pollCount = 0#16 := rfl
@[simp] theorem clearResults_inBuf (s : State) : (clearResults s).inBuf = s.inBuf := rfl
@[simp] theorem clearResults_txBuf (s : State) : (clearResults s).txBuf = s.txBuf := rfl
@[simp] theorem clearResults_ackBuf (s : State) : (clearResults s).ackBuf = s.ackBuf := rfl
@[simp] theorem clearResults_rxBuf (s : State) : (clearResults s).rxBuf = s.rxBuf := rfl
@[simp] theorem clearResults_payload (s : State) : (clearResults s).payload = s.payload := rfl
@[simp] theorem clearResults_req (s : State) : (clearResults s).req = s.req := rfl
@[simp] theorem clearResults_sampleDue (s : State) : (clearResults s).sampleDue = s.sampleDue := rfl
@[simp] theorem clearResults_settleCnt (s : State) : (clearResults s).settleCnt = s.settleCnt := rfl
@[simp] theorem clearResults_inputs (s : State) : (clearResults s).inputs = s.inputs := rfl
@[simp] theorem clearResults_rdData (s : State) : (clearResults s).rdData = s.rdData := rfl
@[simp] theorem clearResults_draws (s : State) : (clearResults s).draws = s.draws := rfl
@[simp] theorem clearResults_epoch (s : State) : (clearResults s).epoch = s.epoch := rfl
@[simp] theorem clearResults_params (s : State) : (clearResults s).params = s.params := rfl

/-! ### setBusy -/

@[simp] theorem setBusy_cmd (s : State) : (setBusy s).cmd = s.cmd := rfl
@[simp] theorem setBusy_busy (s : State) : (setBusy s).busy = true := rfl
@[simp] theorem setBusy_done (s : State) : (setBusy s).done = s.done := rfl
@[simp] theorem setBusy_rej (s : State) : (setBusy s).rej = s.rej := rfl
@[simp] theorem setBusy_code (s : State) : (setBusy s).code = s.code := rfl
@[simp] theorem setBusy_phase (s : State) : (setBusy s).phase = s.phase := rfl
@[simp] theorem setBusy_endPhase (s : State) : (setBusy s).endPhase = s.endPhase := rfl
@[simp] theorem setBusy_inLen (s : State) : (setBusy s).inLen = s.inLen := rfl
@[simp] theorem setBusy_csum (s : State) : (setBusy s).csum = s.csum := rfl
@[simp] theorem setBusy_txLen (s : State) : (setBusy s).txLen = s.txLen := rfl
@[simp] theorem setBusy_ackCount (s : State) : (setBusy s).ackCount = s.ackCount := rfl
@[simp] theorem setBusy_ackResult (s : State) : (setBusy s).ackResult = s.ackResult := rfl
@[simp] theorem setBusy_rxCount (s : State) : (setBusy s).rxCount = s.rxCount := rfl
@[simp] theorem setBusy_respFlags (s : State) : (setBusy s).respFlags = s.respFlags := rfl
@[simp] theorem setBusy_respLen (s : State) : (setBusy s).respLen = s.respLen := rfl
@[simp] theorem setBusy_respAvail (s : State) : (setBusy s).respAvail = s.respAvail := rfl
@[simp] theorem setBusy_pollLimit (s : State) : (setBusy s).pollLimit = s.pollLimit := rfl
@[simp] theorem setBusy_settleTicks (s : State) : (setBusy s).settleTicks = s.settleTicks := rfl
@[simp] theorem setBusy_endTxnEn (s : State) : (setBusy s).endTxnEn = s.endTxnEn := rfl
@[simp] theorem setBusy_pollCount (s : State) : (setBusy s).pollCount = s.pollCount := rfl
@[simp] theorem setBusy_inBuf (s : State) : (setBusy s).inBuf = s.inBuf := rfl
@[simp] theorem setBusy_txBuf (s : State) : (setBusy s).txBuf = s.txBuf := rfl
@[simp] theorem setBusy_ackBuf (s : State) : (setBusy s).ackBuf = s.ackBuf := rfl
@[simp] theorem setBusy_rxBuf (s : State) : (setBusy s).rxBuf = s.rxBuf := rfl
@[simp] theorem setBusy_payload (s : State) : (setBusy s).payload = s.payload := rfl
@[simp] theorem setBusy_req (s : State) : (setBusy s).req = s.req := rfl
@[simp] theorem setBusy_sampleDue (s : State) : (setBusy s).sampleDue = s.sampleDue := rfl
@[simp] theorem setBusy_settleCnt (s : State) : (setBusy s).settleCnt = s.settleCnt := rfl
@[simp] theorem setBusy_inputs (s : State) : (setBusy s).inputs = s.inputs := rfl
@[simp] theorem setBusy_rdData (s : State) : (setBusy s).rdData = s.rdData := rfl
@[simp] theorem setBusy_draws (s : State) : (setBusy s).draws = s.draws := rfl
@[simp] theorem setBusy_epoch (s : State) : (setBusy s).epoch = s.epoch := rfl
@[simp] theorem setBusy_params (s : State) : (setBusy s).params = s.params := rfl

/-! ### setAckResult -/

@[simp] theorem setAckResult_cmd (a : AckResult) (s : State) : (setAckResult a s).cmd = s.cmd := rfl
@[simp] theorem setAckResult_busy (a : AckResult) (s : State) : (setAckResult a s).busy = s.busy := rfl
@[simp] theorem setAckResult_done (a : AckResult) (s : State) : (setAckResult a s).done = s.done := rfl
@[simp] theorem setAckResult_rej (a : AckResult) (s : State) : (setAckResult a s).rej = s.rej := rfl
@[simp] theorem setAckResult_code (a : AckResult) (s : State) : (setAckResult a s).code = s.code := rfl
@[simp] theorem setAckResult_phase (a : AckResult) (s : State) : (setAckResult a s).phase = s.phase := rfl
@[simp] theorem setAckResult_endPhase (a : AckResult) (s : State) : (setAckResult a s).endPhase = s.endPhase := rfl
@[simp] theorem setAckResult_inLen (a : AckResult) (s : State) : (setAckResult a s).inLen = s.inLen := rfl
@[simp] theorem setAckResult_csum (a : AckResult) (s : State) : (setAckResult a s).csum = s.csum := rfl
@[simp] theorem setAckResult_txLen (a : AckResult) (s : State) : (setAckResult a s).txLen = s.txLen := rfl
@[simp] theorem setAckResult_ackCount (a : AckResult) (s : State) : (setAckResult a s).ackCount = s.ackCount := rfl
@[simp] theorem setAckResult_ackResult (a : AckResult) (s : State) : (setAckResult a s).ackResult = a := rfl
@[simp] theorem setAckResult_rxCount (a : AckResult) (s : State) : (setAckResult a s).rxCount = s.rxCount := rfl
@[simp] theorem setAckResult_respFlags (a : AckResult) (s : State) : (setAckResult a s).respFlags = s.respFlags := rfl
@[simp] theorem setAckResult_respLen (a : AckResult) (s : State) : (setAckResult a s).respLen = s.respLen := rfl
@[simp] theorem setAckResult_respAvail (a : AckResult) (s : State) : (setAckResult a s).respAvail = s.respAvail := rfl
@[simp] theorem setAckResult_pollLimit (a : AckResult) (s : State) : (setAckResult a s).pollLimit = s.pollLimit := rfl
@[simp] theorem setAckResult_settleTicks (a : AckResult) (s : State) : (setAckResult a s).settleTicks = s.settleTicks := rfl
@[simp] theorem setAckResult_endTxnEn (a : AckResult) (s : State) : (setAckResult a s).endTxnEn = s.endTxnEn := rfl
@[simp] theorem setAckResult_pollCount (a : AckResult) (s : State) : (setAckResult a s).pollCount = s.pollCount := rfl
@[simp] theorem setAckResult_inBuf (a : AckResult) (s : State) : (setAckResult a s).inBuf = s.inBuf := rfl
@[simp] theorem setAckResult_txBuf (a : AckResult) (s : State) : (setAckResult a s).txBuf = s.txBuf := rfl
@[simp] theorem setAckResult_ackBuf (a : AckResult) (s : State) : (setAckResult a s).ackBuf = s.ackBuf := rfl
@[simp] theorem setAckResult_rxBuf (a : AckResult) (s : State) : (setAckResult a s).rxBuf = s.rxBuf := rfl
@[simp] theorem setAckResult_payload (a : AckResult) (s : State) : (setAckResult a s).payload = s.payload := rfl
@[simp] theorem setAckResult_req (a : AckResult) (s : State) : (setAckResult a s).req = s.req := rfl
@[simp] theorem setAckResult_sampleDue (a : AckResult) (s : State) : (setAckResult a s).sampleDue = s.sampleDue := rfl
@[simp] theorem setAckResult_settleCnt (a : AckResult) (s : State) : (setAckResult a s).settleCnt = s.settleCnt := rfl
@[simp] theorem setAckResult_inputs (a : AckResult) (s : State) : (setAckResult a s).inputs = s.inputs := rfl
@[simp] theorem setAckResult_rdData (a : AckResult) (s : State) : (setAckResult a s).rdData = s.rdData := rfl
@[simp] theorem setAckResult_draws (a : AckResult) (s : State) : (setAckResult a s).draws = s.draws := rfl
@[simp] theorem setAckResult_epoch (a : AckResult) (s : State) : (setAckResult a s).epoch = s.epoch := rfl
@[simp] theorem setAckResult_params (a : AckResult) (s : State) : (setAckResult a s).params = s.params := rfl

/-! ### storeAck -/

@[simp] theorem storeAck_cmd (d : List Byte) (s : State) : (storeAck d s).cmd = s.cmd := rfl
@[simp] theorem storeAck_busy (d : List Byte) (s : State) : (storeAck d s).busy = s.busy := rfl
@[simp] theorem storeAck_done (d : List Byte) (s : State) : (storeAck d s).done = s.done := rfl
@[simp] theorem storeAck_rej (d : List Byte) (s : State) : (storeAck d s).rej = s.rej := rfl
@[simp] theorem storeAck_code (d : List Byte) (s : State) : (storeAck d s).code = s.code := rfl
@[simp] theorem storeAck_phase (d : List Byte) (s : State) : (storeAck d s).phase = s.phase := rfl
@[simp] theorem storeAck_endPhase (d : List Byte) (s : State) : (storeAck d s).endPhase = s.endPhase := rfl
@[simp] theorem storeAck_inLen (d : List Byte) (s : State) : (storeAck d s).inLen = s.inLen := rfl
@[simp] theorem storeAck_csum (d : List Byte) (s : State) : (storeAck d s).csum = s.csum := rfl
@[simp] theorem storeAck_txLen (d : List Byte) (s : State) : (storeAck d s).txLen = s.txLen := rfl
@[simp] theorem storeAck_ackCount (d : List Byte) (s : State) : (storeAck d s).ackCount = BitVec.ofNat 8 d.length := rfl
@[simp] theorem storeAck_ackResult (d : List Byte) (s : State) : (storeAck d s).ackResult = s.ackResult := rfl
@[simp] theorem storeAck_rxCount (d : List Byte) (s : State) : (storeAck d s).rxCount = s.rxCount := rfl
@[simp] theorem storeAck_respFlags (d : List Byte) (s : State) : (storeAck d s).respFlags = s.respFlags := rfl
@[simp] theorem storeAck_respLen (d : List Byte) (s : State) : (storeAck d s).respLen = s.respLen := rfl
@[simp] theorem storeAck_respAvail (d : List Byte) (s : State) : (storeAck d s).respAvail = s.respAvail := rfl
@[simp] theorem storeAck_pollLimit (d : List Byte) (s : State) : (storeAck d s).pollLimit = s.pollLimit := rfl
@[simp] theorem storeAck_settleTicks (d : List Byte) (s : State) : (storeAck d s).settleTicks = s.settleTicks := rfl
@[simp] theorem storeAck_endTxnEn (d : List Byte) (s : State) : (storeAck d s).endTxnEn = s.endTxnEn := rfl
@[simp] theorem storeAck_pollCount (d : List Byte) (s : State) : (storeAck d s).pollCount = s.pollCount := rfl
@[simp] theorem storeAck_inBuf (d : List Byte) (s : State) : (storeAck d s).inBuf = s.inBuf := rfl
@[simp] theorem storeAck_txBuf (d : List Byte) (s : State) : (storeAck d s).txBuf = s.txBuf := rfl
@[simp] theorem storeAck_ackBuf (d : List Byte) (s : State) : (storeAck d s).ackBuf = overlay s.ackBuf d := rfl
@[simp] theorem storeAck_rxBuf (d : List Byte) (s : State) : (storeAck d s).rxBuf = s.rxBuf := rfl
@[simp] theorem storeAck_payload (d : List Byte) (s : State) : (storeAck d s).payload = s.payload := rfl
@[simp] theorem storeAck_req (d : List Byte) (s : State) : (storeAck d s).req = s.req := rfl
@[simp] theorem storeAck_sampleDue (d : List Byte) (s : State) : (storeAck d s).sampleDue = s.sampleDue := rfl
@[simp] theorem storeAck_settleCnt (d : List Byte) (s : State) : (storeAck d s).settleCnt = s.settleCnt := rfl
@[simp] theorem storeAck_inputs (d : List Byte) (s : State) : (storeAck d s).inputs = s.inputs := rfl
@[simp] theorem storeAck_rdData (d : List Byte) (s : State) : (storeAck d s).rdData = s.rdData := rfl
@[simp] theorem storeAck_draws (d : List Byte) (s : State) : (storeAck d s).draws = s.draws := rfl
@[simp] theorem storeAck_epoch (d : List Byte) (s : State) : (storeAck d s).epoch = s.epoch := rfl
@[simp] theorem storeAck_params (d : List Byte) (s : State) : (storeAck d s).params = s.params := rfl

/-! ### storeRx -/

@[simp] theorem storeRx_cmd (d : List Byte) (s : State) : (storeRx d s).cmd = s.cmd := rfl
@[simp] theorem storeRx_busy (d : List Byte) (s : State) : (storeRx d s).busy = s.busy := rfl
@[simp] theorem storeRx_done (d : List Byte) (s : State) : (storeRx d s).done = s.done := rfl
@[simp] theorem storeRx_rej (d : List Byte) (s : State) : (storeRx d s).rej = s.rej := rfl
@[simp] theorem storeRx_code (d : List Byte) (s : State) : (storeRx d s).code = s.code := rfl
@[simp] theorem storeRx_phase (d : List Byte) (s : State) : (storeRx d s).phase = s.phase := rfl
@[simp] theorem storeRx_endPhase (d : List Byte) (s : State) : (storeRx d s).endPhase = s.endPhase := rfl
@[simp] theorem storeRx_inLen (d : List Byte) (s : State) : (storeRx d s).inLen = s.inLen := rfl
@[simp] theorem storeRx_csum (d : List Byte) (s : State) : (storeRx d s).csum = s.csum := rfl
@[simp] theorem storeRx_txLen (d : List Byte) (s : State) : (storeRx d s).txLen = s.txLen := rfl
@[simp] theorem storeRx_ackCount (d : List Byte) (s : State) : (storeRx d s).ackCount = s.ackCount := rfl
@[simp] theorem storeRx_ackResult (d : List Byte) (s : State) : (storeRx d s).ackResult = s.ackResult := rfl
@[simp] theorem storeRx_rxCount (d : List Byte) (s : State) : (storeRx d s).rxCount = BitVec.ofNat 8 d.length := rfl
@[simp] theorem storeRx_respFlags (d : List Byte) (s : State) : (storeRx d s).respFlags = s.respFlags := rfl
@[simp] theorem storeRx_respLen (d : List Byte) (s : State) : (storeRx d s).respLen = s.respLen := rfl
@[simp] theorem storeRx_respAvail (d : List Byte) (s : State) : (storeRx d s).respAvail = s.respAvail := rfl
@[simp] theorem storeRx_pollLimit (d : List Byte) (s : State) : (storeRx d s).pollLimit = s.pollLimit := rfl
@[simp] theorem storeRx_settleTicks (d : List Byte) (s : State) : (storeRx d s).settleTicks = s.settleTicks := rfl
@[simp] theorem storeRx_endTxnEn (d : List Byte) (s : State) : (storeRx d s).endTxnEn = s.endTxnEn := rfl
@[simp] theorem storeRx_pollCount (d : List Byte) (s : State) : (storeRx d s).pollCount = s.pollCount := rfl
@[simp] theorem storeRx_inBuf (d : List Byte) (s : State) : (storeRx d s).inBuf = s.inBuf := rfl
@[simp] theorem storeRx_txBuf (d : List Byte) (s : State) : (storeRx d s).txBuf = s.txBuf := rfl
@[simp] theorem storeRx_ackBuf (d : List Byte) (s : State) : (storeRx d s).ackBuf = s.ackBuf := rfl
@[simp] theorem storeRx_rxBuf (d : List Byte) (s : State) : (storeRx d s).rxBuf = overlay s.rxBuf d := rfl
@[simp] theorem storeRx_payload (d : List Byte) (s : State) : (storeRx d s).payload = s.payload := rfl
@[simp] theorem storeRx_req (d : List Byte) (s : State) : (storeRx d s).req = s.req := rfl
@[simp] theorem storeRx_sampleDue (d : List Byte) (s : State) : (storeRx d s).sampleDue = s.sampleDue := rfl
@[simp] theorem storeRx_settleCnt (d : List Byte) (s : State) : (storeRx d s).settleCnt = s.settleCnt := rfl
@[simp] theorem storeRx_inputs (d : List Byte) (s : State) : (storeRx d s).inputs = s.inputs := rfl
@[simp] theorem storeRx_rdData (d : List Byte) (s : State) : (storeRx d s).rdData = s.rdData := rfl
@[simp] theorem storeRx_draws (d : List Byte) (s : State) : (storeRx d s).draws = s.draws := rfl
@[simp] theorem storeRx_epoch (d : List Byte) (s : State) : (storeRx d s).epoch = s.epoch := rfl
@[simp] theorem storeRx_params (d : List Byte) (s : State) : (storeRx d s).params = s.params := rfl

/-! ### writeResp -/

@[simp] theorem writeResp_cmd (r : Response) (s : State) : (writeResp r s).cmd = s.cmd := rfl
@[simp] theorem writeResp_busy (r : Response) (s : State) : (writeResp r s).busy = s.busy := rfl
@[simp] theorem writeResp_done (r : Response) (s : State) : (writeResp r s).done = s.done := rfl
@[simp] theorem writeResp_rej (r : Response) (s : State) : (writeResp r s).rej = s.rej := rfl
@[simp] theorem writeResp_code (r : Response) (s : State) : (writeResp r s).code = s.code := rfl
@[simp] theorem writeResp_phase (r : Response) (s : State) : (writeResp r s).phase = s.phase := rfl
@[simp] theorem writeResp_endPhase (r : Response) (s : State) : (writeResp r s).endPhase = s.endPhase := rfl
@[simp] theorem writeResp_inLen (r : Response) (s : State) : (writeResp r s).inLen = s.inLen := rfl
@[simp] theorem writeResp_csum (r : Response) (s : State) : (writeResp r s).csum = s.csum := rfl
@[simp] theorem writeResp_txLen (r : Response) (s : State) : (writeResp r s).txLen = s.txLen := rfl
@[simp] theorem writeResp_ackCount (r : Response) (s : State) : (writeResp r s).ackCount = s.ackCount := rfl
@[simp] theorem writeResp_ackResult (r : Response) (s : State) : (writeResp r s).ackResult = s.ackResult := rfl
@[simp] theorem writeResp_rxCount (r : Response) (s : State) : (writeResp r s).rxCount = s.rxCount := rfl
@[simp] theorem writeResp_respFlags (r : Response) (s : State) : (writeResp r s).respFlags = r.flags := rfl
@[simp] theorem writeResp_respLen (r : Response) (s : State) : (writeResp r s).respLen = r.len9 := rfl
@[simp] theorem writeResp_respAvail (r : Response) (s : State) : (writeResp r s).respAvail = r.avail := rfl
@[simp] theorem writeResp_pollLimit (r : Response) (s : State) : (writeResp r s).pollLimit = s.pollLimit := rfl
@[simp] theorem writeResp_settleTicks (r : Response) (s : State) : (writeResp r s).settleTicks = s.settleTicks := rfl
@[simp] theorem writeResp_endTxnEn (r : Response) (s : State) : (writeResp r s).endTxnEn = s.endTxnEn := rfl
@[simp] theorem writeResp_pollCount (r : Response) (s : State) : (writeResp r s).pollCount = s.pollCount := rfl
@[simp] theorem writeResp_inBuf (r : Response) (s : State) : (writeResp r s).inBuf = s.inBuf := rfl
@[simp] theorem writeResp_txBuf (r : Response) (s : State) : (writeResp r s).txBuf = s.txBuf := rfl
@[simp] theorem writeResp_ackBuf (r : Response) (s : State) : (writeResp r s).ackBuf = s.ackBuf := rfl
@[simp] theorem writeResp_rxBuf (r : Response) (s : State) : (writeResp r s).rxBuf = s.rxBuf := rfl
@[simp] theorem writeResp_payload (r : Response) (s : State) : (writeResp r s).payload = overlay s.payload r.payload := rfl
@[simp] theorem writeResp_req (r : Response) (s : State) : (writeResp r s).req = s.req := rfl
@[simp] theorem writeResp_sampleDue (r : Response) (s : State) : (writeResp r s).sampleDue = s.sampleDue := rfl
@[simp] theorem writeResp_settleCnt (r : Response) (s : State) : (writeResp r s).settleCnt = s.settleCnt := rfl
@[simp] theorem writeResp_inputs (r : Response) (s : State) : (writeResp r s).inputs = s.inputs := rfl
@[simp] theorem writeResp_rdData (r : Response) (s : State) : (writeResp r s).rdData = s.rdData := rfl
@[simp] theorem writeResp_draws (r : Response) (s : State) : (writeResp r s).draws = s.draws := rfl
@[simp] theorem writeResp_epoch (r : Response) (s : State) : (writeResp r s).epoch = s.epoch := rfl
@[simp] theorem writeResp_params (r : Response) (s : State) : (writeResp r s).params = s.params := rfl

/-! ### setCsum -/

@[simp] theorem setCsum_cmd (v : Byte) (s : State) : (setCsum v s).cmd = s.cmd := rfl
@[simp] theorem setCsum_busy (v : Byte) (s : State) : (setCsum v s).busy = s.busy := rfl
@[simp] theorem setCsum_done (v : Byte) (s : State) : (setCsum v s).done = s.done := rfl
@[simp] theorem setCsum_rej (v : Byte) (s : State) : (setCsum v s).rej = s.rej := rfl
@[simp] theorem setCsum_code (v : Byte) (s : State) : (setCsum v s).code = s.code := rfl
@[simp] theorem setCsum_phase (v : Byte) (s : State) : (setCsum v s).phase = s.phase := rfl
@[simp] theorem setCsum_endPhase (v : Byte) (s : State) : (setCsum v s).endPhase = s.endPhase := rfl
@[simp] theorem setCsum_inLen (v : Byte) (s : State) : (setCsum v s).inLen = s.inLen := rfl
@[simp] theorem setCsum_csum (v : Byte) (s : State) : (setCsum v s).csum = v := rfl
@[simp] theorem setCsum_txLen (v : Byte) (s : State) : (setCsum v s).txLen = s.txLen := rfl
@[simp] theorem setCsum_ackCount (v : Byte) (s : State) : (setCsum v s).ackCount = s.ackCount := rfl
@[simp] theorem setCsum_ackResult (v : Byte) (s : State) : (setCsum v s).ackResult = s.ackResult := rfl
@[simp] theorem setCsum_rxCount (v : Byte) (s : State) : (setCsum v s).rxCount = s.rxCount := rfl
@[simp] theorem setCsum_respFlags (v : Byte) (s : State) : (setCsum v s).respFlags = s.respFlags := rfl
@[simp] theorem setCsum_respLen (v : Byte) (s : State) : (setCsum v s).respLen = s.respLen := rfl
@[simp] theorem setCsum_respAvail (v : Byte) (s : State) : (setCsum v s).respAvail = s.respAvail := rfl
@[simp] theorem setCsum_pollLimit (v : Byte) (s : State) : (setCsum v s).pollLimit = s.pollLimit := rfl
@[simp] theorem setCsum_settleTicks (v : Byte) (s : State) : (setCsum v s).settleTicks = s.settleTicks := rfl
@[simp] theorem setCsum_endTxnEn (v : Byte) (s : State) : (setCsum v s).endTxnEn = s.endTxnEn := rfl
@[simp] theorem setCsum_pollCount (v : Byte) (s : State) : (setCsum v s).pollCount = s.pollCount := rfl
@[simp] theorem setCsum_inBuf (v : Byte) (s : State) : (setCsum v s).inBuf = s.inBuf := rfl
@[simp] theorem setCsum_txBuf (v : Byte) (s : State) : (setCsum v s).txBuf = s.txBuf := rfl
@[simp] theorem setCsum_ackBuf (v : Byte) (s : State) : (setCsum v s).ackBuf = s.ackBuf := rfl
@[simp] theorem setCsum_rxBuf (v : Byte) (s : State) : (setCsum v s).rxBuf = s.rxBuf := rfl
@[simp] theorem setCsum_payload (v : Byte) (s : State) : (setCsum v s).payload = s.payload := rfl
@[simp] theorem setCsum_req (v : Byte) (s : State) : (setCsum v s).req = s.req := rfl
@[simp] theorem setCsum_sampleDue (v : Byte) (s : State) : (setCsum v s).sampleDue = s.sampleDue := rfl
@[simp] theorem setCsum_settleCnt (v : Byte) (s : State) : (setCsum v s).settleCnt = s.settleCnt := rfl
@[simp] theorem setCsum_inputs (v : Byte) (s : State) : (setCsum v s).inputs = s.inputs := rfl
@[simp] theorem setCsum_rdData (v : Byte) (s : State) : (setCsum v s).rdData = s.rdData := rfl
@[simp] theorem setCsum_draws (v : Byte) (s : State) : (setCsum v s).draws = s.draws := rfl
@[simp] theorem setCsum_epoch (v : Byte) (s : State) : (setCsum v s).epoch = s.epoch := rfl
@[simp] theorem setCsum_params (v : Byte) (s : State) : (setCsum v s).params = s.params := rfl

/-! ### countSample -/

@[simp] theorem countSample_cmd (s : State) : (countSample s).cmd = s.cmd := rfl
@[simp] theorem countSample_busy (s : State) : (countSample s).busy = s.busy := rfl
@[simp] theorem countSample_done (s : State) : (countSample s).done = s.done := rfl
@[simp] theorem countSample_rej (s : State) : (countSample s).rej = s.rej := rfl
@[simp] theorem countSample_code (s : State) : (countSample s).code = s.code := rfl
@[simp] theorem countSample_phase (s : State) : (countSample s).phase = s.phase := rfl
@[simp] theorem countSample_endPhase (s : State) : (countSample s).endPhase = s.endPhase := rfl
@[simp] theorem countSample_inLen (s : State) : (countSample s).inLen = s.inLen := rfl
@[simp] theorem countSample_csum (s : State) : (countSample s).csum = s.csum := rfl
@[simp] theorem countSample_txLen (s : State) : (countSample s).txLen = s.txLen := rfl
@[simp] theorem countSample_ackCount (s : State) : (countSample s).ackCount = s.ackCount := rfl
@[simp] theorem countSample_ackResult (s : State) : (countSample s).ackResult = s.ackResult := rfl
@[simp] theorem countSample_rxCount (s : State) : (countSample s).rxCount = s.rxCount := rfl
@[simp] theorem countSample_respFlags (s : State) : (countSample s).respFlags = s.respFlags := rfl
@[simp] theorem countSample_respLen (s : State) : (countSample s).respLen = s.respLen := rfl
@[simp] theorem countSample_respAvail (s : State) : (countSample s).respAvail = s.respAvail := rfl
@[simp] theorem countSample_pollLimit (s : State) : (countSample s).pollLimit = s.pollLimit := rfl
@[simp] theorem countSample_settleTicks (s : State) : (countSample s).settleTicks = s.settleTicks := rfl
@[simp] theorem countSample_endTxnEn (s : State) : (countSample s).endTxnEn = s.endTxnEn := rfl
@[simp] theorem countSample_pollCount (s : State) : (countSample s).pollCount = s.pollCount + 1#16 := rfl
@[simp] theorem countSample_inBuf (s : State) : (countSample s).inBuf = s.inBuf := rfl
@[simp] theorem countSample_txBuf (s : State) : (countSample s).txBuf = s.txBuf := rfl
@[simp] theorem countSample_ackBuf (s : State) : (countSample s).ackBuf = s.ackBuf := rfl
@[simp] theorem countSample_rxBuf (s : State) : (countSample s).rxBuf = s.rxBuf := rfl
@[simp] theorem countSample_payload (s : State) : (countSample s).payload = s.payload := rfl
@[simp] theorem countSample_req (s : State) : (countSample s).req = s.req := rfl
@[simp] theorem countSample_sampleDue (s : State) : (countSample s).sampleDue = s.sampleDue := rfl
@[simp] theorem countSample_settleCnt (s : State) : (countSample s).settleCnt = s.settleCnt := rfl
@[simp] theorem countSample_inputs (s : State) : (countSample s).inputs = s.inputs := rfl
@[simp] theorem countSample_rdData (s : State) : (countSample s).rdData = s.rdData := rfl
@[simp] theorem countSample_draws (s : State) : (countSample s).draws = s.draws := rfl
@[simp] theorem countSample_epoch (s : State) : (countSample s).epoch = s.epoch := rfl
@[simp] theorem countSample_params (s : State) : (countSample s).params = s.params := rfl

/-! ### setSampleDue -/

@[simp] theorem setSampleDue_cmd (b : Bool) (s : State) : (setSampleDue b s).cmd = s.cmd := rfl
@[simp] theorem setSampleDue_busy (b : Bool) (s : State) : (setSampleDue b s).busy = s.busy := rfl
@[simp] theorem setSampleDue_done (b : Bool) (s : State) : (setSampleDue b s).done = s.done := rfl
@[simp] theorem setSampleDue_rej (b : Bool) (s : State) : (setSampleDue b s).rej = s.rej := rfl
@[simp] theorem setSampleDue_code (b : Bool) (s : State) : (setSampleDue b s).code = s.code := rfl
@[simp] theorem setSampleDue_phase (b : Bool) (s : State) : (setSampleDue b s).phase = s.phase := rfl
@[simp] theorem setSampleDue_endPhase (b : Bool) (s : State) : (setSampleDue b s).endPhase = s.endPhase := rfl
@[simp] theorem setSampleDue_inLen (b : Bool) (s : State) : (setSampleDue b s).inLen = s.inLen := rfl
@[simp] theorem setSampleDue_csum (b : Bool) (s : State) : (setSampleDue b s).csum = s.csum := rfl
@[simp] theorem setSampleDue_txLen (b : Bool) (s : State) : (setSampleDue b s).txLen = s.txLen := rfl
@[simp] theorem setSampleDue_ackCount (b : Bool) (s : State) : (setSampleDue b s).ackCount = s.ackCount := rfl
@[simp] theorem setSampleDue_ackResult (b : Bool) (s : State) : (setSampleDue b s).ackResult = s.ackResult := rfl
@[simp] theorem setSampleDue_rxCount (b : Bool) (s : State) : (setSampleDue b s).rxCount = s.rxCount := rfl
@[simp] theorem setSampleDue_respFlags (b : Bool) (s : State) : (setSampleDue b s).respFlags = s.respFlags := rfl
@[simp] theorem setSampleDue_respLen (b : Bool) (s : State) : (setSampleDue b s).respLen = s.respLen := rfl
@[simp] theorem setSampleDue_respAvail (b : Bool) (s : State) : (setSampleDue b s).respAvail = s.respAvail := rfl
@[simp] theorem setSampleDue_pollLimit (b : Bool) (s : State) : (setSampleDue b s).pollLimit = s.pollLimit := rfl
@[simp] theorem setSampleDue_settleTicks (b : Bool) (s : State) : (setSampleDue b s).settleTicks = s.settleTicks := rfl
@[simp] theorem setSampleDue_endTxnEn (b : Bool) (s : State) : (setSampleDue b s).endTxnEn = s.endTxnEn := rfl
@[simp] theorem setSampleDue_pollCount (b : Bool) (s : State) : (setSampleDue b s).pollCount = s.pollCount := rfl
@[simp] theorem setSampleDue_inBuf (b : Bool) (s : State) : (setSampleDue b s).inBuf = s.inBuf := rfl
@[simp] theorem setSampleDue_txBuf (b : Bool) (s : State) : (setSampleDue b s).txBuf = s.txBuf := rfl
@[simp] theorem setSampleDue_ackBuf (b : Bool) (s : State) : (setSampleDue b s).ackBuf = s.ackBuf := rfl
@[simp] theorem setSampleDue_rxBuf (b : Bool) (s : State) : (setSampleDue b s).rxBuf = s.rxBuf := rfl
@[simp] theorem setSampleDue_payload (b : Bool) (s : State) : (setSampleDue b s).payload = s.payload := rfl
@[simp] theorem setSampleDue_req (b : Bool) (s : State) : (setSampleDue b s).req = s.req := rfl
@[simp] theorem setSampleDue_sampleDue (b : Bool) (s : State) : (setSampleDue b s).sampleDue = b := rfl
@[simp] theorem setSampleDue_settleCnt (b : Bool) (s : State) : (setSampleDue b s).settleCnt = s.settleCnt := rfl
@[simp] theorem setSampleDue_inputs (b : Bool) (s : State) : (setSampleDue b s).inputs = s.inputs := rfl
@[simp] theorem setSampleDue_rdData (b : Bool) (s : State) : (setSampleDue b s).rdData = s.rdData := rfl
@[simp] theorem setSampleDue_draws (b : Bool) (s : State) : (setSampleDue b s).draws = s.draws := rfl
@[simp] theorem setSampleDue_epoch (b : Bool) (s : State) : (setSampleDue b s).epoch = s.epoch := rfl
@[simp] theorem setSampleDue_params (b : Bool) (s : State) : (setSampleDue b s).params = s.params := rfl

/-! ### countSettle -/

@[simp] theorem countSettle_cmd (s : State) : (countSettle s).cmd = s.cmd := rfl
@[simp] theorem countSettle_busy (s : State) : (countSettle s).busy = s.busy := rfl
@[simp] theorem countSettle_done (s : State) : (countSettle s).done = s.done := rfl
@[simp] theorem countSettle_rej (s : State) : (countSettle s).rej = s.rej := rfl
@[simp] theorem countSettle_code (s : State) : (countSettle s).code = s.code := rfl
@[simp] theorem countSettle_phase (s : State) : (countSettle s).phase = s.phase := rfl
@[simp] theorem countSettle_endPhase (s : State) : (countSettle s).endPhase = s.endPhase := rfl
@[simp] theorem countSettle_inLen (s : State) : (countSettle s).inLen = s.inLen := rfl
@[simp] theorem countSettle_csum (s : State) : (countSettle s).csum = s.csum := rfl
@[simp] theorem countSettle_txLen (s : State) : (countSettle s).txLen = s.txLen := rfl
@[simp] theorem countSettle_ackCount (s : State) : (countSettle s).ackCount = s.ackCount := rfl
@[simp] theorem countSettle_ackResult (s : State) : (countSettle s).ackResult = s.ackResult := rfl
@[simp] theorem countSettle_rxCount (s : State) : (countSettle s).rxCount = s.rxCount := rfl
@[simp] theorem countSettle_respFlags (s : State) : (countSettle s).respFlags = s.respFlags := rfl
@[simp] theorem countSettle_respLen (s : State) : (countSettle s).respLen = s.respLen := rfl
@[simp] theorem countSettle_respAvail (s : State) : (countSettle s).respAvail = s.respAvail := rfl
@[simp] theorem countSettle_pollLimit (s : State) : (countSettle s).pollLimit = s.pollLimit := rfl
@[simp] theorem countSettle_settleTicks (s : State) : (countSettle s).settleTicks = s.settleTicks := rfl
@[simp] theorem countSettle_endTxnEn (s : State) : (countSettle s).endTxnEn = s.endTxnEn := rfl
@[simp] theorem countSettle_pollCount (s : State) : (countSettle s).pollCount = s.pollCount := rfl
@[simp] theorem countSettle_inBuf (s : State) : (countSettle s).inBuf = s.inBuf := rfl
@[simp] theorem countSettle_txBuf (s : State) : (countSettle s).txBuf = s.txBuf := rfl
@[simp] theorem countSettle_ackBuf (s : State) : (countSettle s).ackBuf = s.ackBuf := rfl
@[simp] theorem countSettle_rxBuf (s : State) : (countSettle s).rxBuf = s.rxBuf := rfl
@[simp] theorem countSettle_payload (s : State) : (countSettle s).payload = s.payload := rfl
@[simp] theorem countSettle_req (s : State) : (countSettle s).req = s.req := rfl
@[simp] theorem countSettle_sampleDue (s : State) : (countSettle s).sampleDue = s.sampleDue := rfl
@[simp] theorem countSettle_settleCnt (s : State) : (countSettle s).settleCnt = s.settleCnt + 1#8 := rfl
@[simp] theorem countSettle_inputs (s : State) : (countSettle s).inputs = s.inputs := rfl
@[simp] theorem countSettle_rdData (s : State) : (countSettle s).rdData = s.rdData := rfl
@[simp] theorem countSettle_draws (s : State) : (countSettle s).draws = s.draws := rfl
@[simp] theorem countSettle_epoch (s : State) : (countSettle s).epoch = s.epoch := rfl
@[simp] theorem countSettle_params (s : State) : (countSettle s).params = s.params := rfl

/-! ### giveHost -/

@[simp] theorem giveHost_cmd (v : Byte) (s : State) : (giveHost v s).cmd = s.cmd := rfl
@[simp] theorem giveHost_busy (v : Byte) (s : State) : (giveHost v s).busy = s.busy := rfl
@[simp] theorem giveHost_done (v : Byte) (s : State) : (giveHost v s).done = s.done := rfl
@[simp] theorem giveHost_rej (v : Byte) (s : State) : (giveHost v s).rej = s.rej := rfl
@[simp] theorem giveHost_code (v : Byte) (s : State) : (giveHost v s).code = s.code := rfl
@[simp] theorem giveHost_phase (v : Byte) (s : State) : (giveHost v s).phase = s.phase := rfl
@[simp] theorem giveHost_endPhase (v : Byte) (s : State) : (giveHost v s).endPhase = s.endPhase := rfl
@[simp] theorem giveHost_inLen (v : Byte) (s : State) : (giveHost v s).inLen = s.inLen := rfl
@[simp] theorem giveHost_csum (v : Byte) (s : State) : (giveHost v s).csum = s.csum := rfl
@[simp] theorem giveHost_txLen (v : Byte) (s : State) : (giveHost v s).txLen = s.txLen := rfl
@[simp] theorem giveHost_ackCount (v : Byte) (s : State) : (giveHost v s).ackCount = s.ackCount := rfl
@[simp] theorem giveHost_ackResult (v : Byte) (s : State) : (giveHost v s).ackResult = s.ackResult := rfl
@[simp] theorem giveHost_rxCount (v : Byte) (s : State) : (giveHost v s).rxCount = s.rxCount := rfl
@[simp] theorem giveHost_respFlags (v : Byte) (s : State) : (giveHost v s).respFlags = s.respFlags := rfl
@[simp] theorem giveHost_respLen (v : Byte) (s : State) : (giveHost v s).respLen = s.respLen := rfl
@[simp] theorem giveHost_respAvail (v : Byte) (s : State) : (giveHost v s).respAvail = s.respAvail := rfl
@[simp] theorem giveHost_pollLimit (v : Byte) (s : State) : (giveHost v s).pollLimit = s.pollLimit := rfl
@[simp] theorem giveHost_settleTicks (v : Byte) (s : State) : (giveHost v s).settleTicks = s.settleTicks := rfl
@[simp] theorem giveHost_endTxnEn (v : Byte) (s : State) : (giveHost v s).endTxnEn = s.endTxnEn := rfl
@[simp] theorem giveHost_pollCount (v : Byte) (s : State) : (giveHost v s).pollCount = s.pollCount := rfl
@[simp] theorem giveHost_inBuf (v : Byte) (s : State) : (giveHost v s).inBuf = s.inBuf := rfl
@[simp] theorem giveHost_txBuf (v : Byte) (s : State) : (giveHost v s).txBuf = s.txBuf := rfl
@[simp] theorem giveHost_ackBuf (v : Byte) (s : State) : (giveHost v s).ackBuf = s.ackBuf := rfl
@[simp] theorem giveHost_rxBuf (v : Byte) (s : State) : (giveHost v s).rxBuf = s.rxBuf := rfl
@[simp] theorem giveHost_payload (v : Byte) (s : State) : (giveHost v s).payload = s.payload := rfl
@[simp] theorem giveHost_req (v : Byte) (s : State) : (giveHost v s).req = s.req := rfl
@[simp] theorem giveHost_sampleDue (v : Byte) (s : State) : (giveHost v s).sampleDue = s.sampleDue := rfl
@[simp] theorem giveHost_settleCnt (v : Byte) (s : State) : (giveHost v s).settleCnt = s.settleCnt := rfl
@[simp] theorem giveHost_inputs (v : Byte) (s : State) : (giveHost v s).inputs = s.inputs := rfl
@[simp] theorem giveHost_rdData (v : Byte) (s : State) : (giveHost v s).rdData = v := rfl
@[simp] theorem giveHost_draws (v : Byte) (s : State) : (giveHost v s).draws = s.draws := rfl
@[simp] theorem giveHost_epoch (v : Byte) (s : State) : (giveHost v s).epoch = s.epoch := rfl
@[simp] theorem giveHost_params (v : Byte) (s : State) : (giveHost v s).params = s.params := rfl

/-! ### giveHostAny -/

@[simp] theorem giveHostAny_cmd (s : State) : (giveHostAny s).cmd = s.cmd := rfl
@[simp] theorem giveHostAny_busy (s : State) : (giveHostAny s).busy = s.busy := rfl
@[simp] theorem giveHostAny_done (s : State) : (giveHostAny s).done = s.done := rfl
@[simp] theorem giveHostAny_rej (s : State) : (giveHostAny s).rej = s.rej := rfl
@[simp] theorem giveHostAny_code (s : State) : (giveHostAny s).code = s.code := rfl
@[simp] theorem giveHostAny_phase (s : State) : (giveHostAny s).phase = s.phase := rfl
@[simp] theorem giveHostAny_endPhase (s : State) : (giveHostAny s).endPhase = s.endPhase := rfl
@[simp] theorem giveHostAny_inLen (s : State) : (giveHostAny s).inLen = s.inLen := rfl
@[simp] theorem giveHostAny_csum (s : State) : (giveHostAny s).csum = s.csum := rfl
@[simp] theorem giveHostAny_txLen (s : State) : (giveHostAny s).txLen = s.txLen := rfl
@[simp] theorem giveHostAny_ackCount (s : State) : (giveHostAny s).ackCount = s.ackCount := rfl
@[simp] theorem giveHostAny_ackResult (s : State) : (giveHostAny s).ackResult = s.ackResult := rfl
@[simp] theorem giveHostAny_rxCount (s : State) : (giveHostAny s).rxCount = s.rxCount := rfl
@[simp] theorem giveHostAny_respFlags (s : State) : (giveHostAny s).respFlags = s.respFlags := rfl
@[simp] theorem giveHostAny_respLen (s : State) : (giveHostAny s).respLen = s.respLen := rfl
@[simp] theorem giveHostAny_respAvail (s : State) : (giveHostAny s).respAvail = s.respAvail := rfl
@[simp] theorem giveHostAny_pollLimit (s : State) : (giveHostAny s).pollLimit = s.pollLimit := rfl
@[simp] theorem giveHostAny_settleTicks (s : State) : (giveHostAny s).settleTicks = s.settleTicks := rfl
@[simp] theorem giveHostAny_endTxnEn (s : State) : (giveHostAny s).endTxnEn = s.endTxnEn := rfl
@[simp] theorem giveHostAny_pollCount (s : State) : (giveHostAny s).pollCount = s.pollCount := rfl
@[simp] theorem giveHostAny_inBuf (s : State) : (giveHostAny s).inBuf = s.inBuf := rfl
@[simp] theorem giveHostAny_txBuf (s : State) : (giveHostAny s).txBuf = s.txBuf := rfl
@[simp] theorem giveHostAny_ackBuf (s : State) : (giveHostAny s).ackBuf = s.ackBuf := rfl
@[simp] theorem giveHostAny_rxBuf (s : State) : (giveHostAny s).rxBuf = s.rxBuf := rfl
@[simp] theorem giveHostAny_payload (s : State) : (giveHostAny s).payload = s.payload := rfl
@[simp] theorem giveHostAny_req (s : State) : (giveHostAny s).req = s.req := rfl
@[simp] theorem giveHostAny_sampleDue (s : State) : (giveHostAny s).sampleDue = s.sampleDue := rfl
@[simp] theorem giveHostAny_settleCnt (s : State) : (giveHostAny s).settleCnt = s.settleCnt := rfl
@[simp] theorem giveHostAny_inputs (s : State) : (giveHostAny s).inputs = s.inputs := rfl
@[simp] theorem giveHostAny_rdData (s : State) : (giveHostAny s).rdData = Config.anyByte s.draws := rfl
@[simp] theorem giveHostAny_draws (s : State) : (giveHostAny s).draws = s.draws + 1 := rfl
@[simp] theorem giveHostAny_epoch (s : State) : (giveHostAny s).epoch = s.epoch := rfl
@[simp] theorem giveHostAny_params (s : State) : (giveHostAny s).params = s.params := rfl

/-! ### the derived reads -/

@[simp] theorem finish_waitLimit (c : Completion) (s : State) : (finish c s).waitLimit = s.waitLimit := rfl
@[simp] theorem finish_inBytes (c : Completion) (s : State) : (finish c s).inBytes = s.inBytes := rfl
@[simp] theorem finish_frameLengthOk (c : Completion) (s : State) : (finish c s).frameLengthOk = s.frameLengthOk := rfl
@[simp] theorem finish_checksumLengthOk (c : Completion) (s : State) : (finish c s).checksumLengthOk = s.checksumLengthOk := rfl
@[simp] theorem finish_txFrame (c : Completion) (s : State) : (finish c s).txFrame = s.txFrame := rfl
@[simp] theorem beginCommand_waitLimit (v : Byte) (s : State) : (beginCommand v s).waitLimit = s.waitLimit := rfl
@[simp] theorem beginCommand_inBytes (v : Byte) (s : State) : (beginCommand v s).inBytes = s.inBytes := rfl
@[simp] theorem beginCommand_frameLengthOk (v : Byte) (s : State) : (beginCommand v s).frameLengthOk = s.frameLengthOk := rfl
@[simp] theorem beginCommand_checksumLengthOk (v : Byte) (s : State) : (beginCommand v s).checksumLengthOk = s.checksumLengthOk := rfl
@[simp] theorem beginCommand_txFrame (v : Byte) (s : State) : (beginCommand v s).txFrame = s.txFrame := rfl
@[simp] theorem rejectWrite_waitLimit (s : State) : (rejectWrite s).waitLimit = s.waitLimit := rfl
@[simp] theorem rejectWrite_inBytes (s : State) : (rejectWrite s).inBytes = s.inBytes := rfl
@[simp] theorem rejectWrite_frameLengthOk (s : State) : (rejectWrite s).frameLengthOk = s.frameLengthOk := rfl
@[simp] theorem rejectWrite_checksumLengthOk (s : State) : (rejectWrite s).checksumLengthOk = s.checksumLengthOk := rfl
@[simp] theorem rejectWrite_txFrame (s : State) : (rejectWrite s).txFrame = s.txFrame := rfl
@[simp] theorem enterIssue_waitLimit (p : Phase) (r : Req) (s : State) : (enterIssue p r s).waitLimit = s.waitLimit := rfl
@[simp] theorem enterIssue_inBytes (p : Phase) (r : Req) (s : State) : (enterIssue p r s).inBytes = s.inBytes := rfl
@[simp] theorem enterIssue_frameLengthOk (p : Phase) (r : Req) (s : State) : (enterIssue p r s).frameLengthOk = s.frameLengthOk := rfl
@[simp] theorem enterIssue_checksumLengthOk (p : Phase) (r : Req) (s : State) : (enterIssue p r s).checksumLengthOk = s.checksumLengthOk := rfl
@[simp] theorem enterIssue_txFrame (p : Phase) (r : Req) (s : State) : (enterIssue p r s).txFrame = s.txFrame := rfl
@[simp] theorem enterWait_waitLimit (p : Phase) (s : State) : (enterWait p s).waitLimit = s.waitLimit := rfl
@[simp] theorem enterWait_inBytes (p : Phase) (s : State) : (enterWait p s).inBytes = s.inBytes := rfl
@[simp] theorem enterWait_frameLengthOk (p : Phase) (s : State) : (enterWait p s).frameLengthOk = s.frameLengthOk := rfl
@[simp] theorem enterWait_checksumLengthOk (p : Phase) (s : State) : (enterWait p s).checksumLengthOk = s.checksumLengthOk := rfl
@[simp] theorem enterWait_txFrame (p : Phase) (s : State) : (enterWait p s).txFrame = s.txFrame := rfl
@[simp] theorem startSettle_waitLimit (s : State) : (startSettle s).waitLimit = s.waitLimit := rfl
@[simp] theorem startSettle_inBytes (s : State) : (startSettle s).inBytes = s.inBytes := rfl
@[simp] theorem startSettle_frameLengthOk (s : State) : (startSettle s).frameLengthOk = s.frameLengthOk := rfl
@[simp] theorem startSettle_checksumLengthOk (s : State) : (startSettle s).checksumLengthOk = s.checksumLengthOk := rfl
@[simp] theorem startSettle_txFrame (s : State) : (startSettle s).txFrame = s.txFrame := rfl
@[simp] theorem storeFrame_waitLimit (s : State) : (storeFrame s).waitLimit = s.waitLimit := rfl
@[simp] theorem storeFrame_inBytes (s : State) : (storeFrame s).inBytes = s.inBytes := rfl
@[simp] theorem storeFrame_frameLengthOk (s : State) : (storeFrame s).frameLengthOk = s.frameLengthOk := rfl
@[simp] theorem storeFrame_checksumLengthOk (s : State) : (storeFrame s).checksumLengthOk = s.checksumLengthOk := rfl
@[simp] theorem clearResults_waitLimit (s : State) : (clearResults s).waitLimit = s.waitLimit := rfl
@[simp] theorem clearResults_inBytes (s : State) : (clearResults s).inBytes = s.inBytes := rfl
@[simp] theorem clearResults_frameLengthOk (s : State) : (clearResults s).frameLengthOk = s.frameLengthOk := rfl
@[simp] theorem clearResults_checksumLengthOk (s : State) : (clearResults s).checksumLengthOk = s.checksumLengthOk := rfl
@[simp] theorem clearResults_txFrame (s : State) : (clearResults s).txFrame = s.txFrame := rfl
@[simp] theorem setBusy_waitLimit (s : State) : (setBusy s).waitLimit = s.waitLimit := rfl
@[simp] theorem setBusy_inBytes (s : State) : (setBusy s).inBytes = s.inBytes := rfl
@[simp] theorem setBusy_frameLengthOk (s : State) : (setBusy s).frameLengthOk = s.frameLengthOk := rfl
@[simp] theorem setBusy_checksumLengthOk (s : State) : (setBusy s).checksumLengthOk = s.checksumLengthOk := rfl
@[simp] theorem setBusy_txFrame (s : State) : (setBusy s).txFrame = s.txFrame := rfl
@[simp] theorem setAckResult_waitLimit (a : AckResult) (s : State) : (setAckResult a s).waitLimit = s.waitLimit := rfl
@[simp] theorem setAckResult_inBytes (a : AckResult) (s : State) : (setAckResult a s).inBytes = s.inBytes := rfl
@[simp] theorem setAckResult_frameLengthOk (a : AckResult) (s : State) : (setAckResult a s).frameLengthOk = s.frameLengthOk := rfl
@[simp] theorem setAckResult_checksumLengthOk (a : AckResult) (s : State) : (setAckResult a s).checksumLengthOk = s.checksumLengthOk := rfl
@[simp] theorem setAckResult_txFrame (a : AckResult) (s : State) : (setAckResult a s).txFrame = s.txFrame := rfl
@[simp] theorem storeAck_waitLimit (d : List Byte) (s : State) : (storeAck d s).waitLimit = s.waitLimit := rfl
@[simp] theorem storeAck_inBytes (d : List Byte) (s : State) : (storeAck d s).inBytes = s.inBytes := rfl
@[simp] theorem storeAck_frameLengthOk (d : List Byte) (s : State) : (storeAck d s).frameLengthOk = s.frameLengthOk := rfl
@[simp] theorem storeAck_checksumLengthOk (d : List Byte) (s : State) : (storeAck d s).checksumLengthOk = s.checksumLengthOk := rfl
@[simp] theorem storeAck_txFrame (d : List Byte) (s : State) : (storeAck d s).txFrame = s.txFrame := rfl
@[simp] theorem storeRx_waitLimit (d : List Byte) (s : State) : (storeRx d s).waitLimit = s.waitLimit := rfl
@[simp] theorem storeRx_inBytes (d : List Byte) (s : State) : (storeRx d s).inBytes = s.inBytes := rfl
@[simp] theorem storeRx_frameLengthOk (d : List Byte) (s : State) : (storeRx d s).frameLengthOk = s.frameLengthOk := rfl
@[simp] theorem storeRx_checksumLengthOk (d : List Byte) (s : State) : (storeRx d s).checksumLengthOk = s.checksumLengthOk := rfl
@[simp] theorem storeRx_txFrame (d : List Byte) (s : State) : (storeRx d s).txFrame = s.txFrame := rfl
@[simp] theorem writeResp_waitLimit (r : Response) (s : State) : (writeResp r s).waitLimit = s.waitLimit := rfl
@[simp] theorem writeResp_inBytes (r : Response) (s : State) : (writeResp r s).inBytes = s.inBytes := rfl
@[simp] theorem writeResp_frameLengthOk (r : Response) (s : State) : (writeResp r s).frameLengthOk = s.frameLengthOk := rfl
@[simp] theorem writeResp_checksumLengthOk (r : Response) (s : State) : (writeResp r s).checksumLengthOk = s.checksumLengthOk := rfl
@[simp] theorem writeResp_txFrame (r : Response) (s : State) : (writeResp r s).txFrame = s.txFrame := rfl
@[simp] theorem setCsum_waitLimit (v : Byte) (s : State) : (setCsum v s).waitLimit = s.waitLimit := rfl
@[simp] theorem setCsum_inBytes (v : Byte) (s : State) : (setCsum v s).inBytes = s.inBytes := rfl
@[simp] theorem setCsum_frameLengthOk (v : Byte) (s : State) : (setCsum v s).frameLengthOk = s.frameLengthOk := rfl
@[simp] theorem setCsum_checksumLengthOk (v : Byte) (s : State) : (setCsum v s).checksumLengthOk = s.checksumLengthOk := rfl
@[simp] theorem setCsum_txFrame (v : Byte) (s : State) : (setCsum v s).txFrame = s.txFrame := rfl
@[simp] theorem countSample_waitLimit (s : State) : (countSample s).waitLimit = s.waitLimit := rfl
@[simp] theorem countSample_inBytes (s : State) : (countSample s).inBytes = s.inBytes := rfl
@[simp] theorem countSample_frameLengthOk (s : State) : (countSample s).frameLengthOk = s.frameLengthOk := rfl
@[simp] theorem countSample_checksumLengthOk (s : State) : (countSample s).checksumLengthOk = s.checksumLengthOk := rfl
@[simp] theorem countSample_txFrame (s : State) : (countSample s).txFrame = s.txFrame := rfl
@[simp] theorem setSampleDue_waitLimit (b : Bool) (s : State) : (setSampleDue b s).waitLimit = s.waitLimit := rfl
@[simp] theorem setSampleDue_inBytes (b : Bool) (s : State) : (setSampleDue b s).inBytes = s.inBytes := rfl
@[simp] theorem setSampleDue_frameLengthOk (b : Bool) (s : State) : (setSampleDue b s).frameLengthOk = s.frameLengthOk := rfl
@[simp] theorem setSampleDue_checksumLengthOk (b : Bool) (s : State) : (setSampleDue b s).checksumLengthOk = s.checksumLengthOk := rfl
@[simp] theorem setSampleDue_txFrame (b : Bool) (s : State) : (setSampleDue b s).txFrame = s.txFrame := rfl
@[simp] theorem countSettle_waitLimit (s : State) : (countSettle s).waitLimit = s.waitLimit := rfl
@[simp] theorem countSettle_inBytes (s : State) : (countSettle s).inBytes = s.inBytes := rfl
@[simp] theorem countSettle_frameLengthOk (s : State) : (countSettle s).frameLengthOk = s.frameLengthOk := rfl
@[simp] theorem countSettle_checksumLengthOk (s : State) : (countSettle s).checksumLengthOk = s.checksumLengthOk := rfl
@[simp] theorem countSettle_txFrame (s : State) : (countSettle s).txFrame = s.txFrame := rfl
@[simp] theorem giveHost_waitLimit (v : Byte) (s : State) : (giveHost v s).waitLimit = s.waitLimit := rfl
@[simp] theorem giveHost_inBytes (v : Byte) (s : State) : (giveHost v s).inBytes = s.inBytes := rfl
@[simp] theorem giveHost_frameLengthOk (v : Byte) (s : State) : (giveHost v s).frameLengthOk = s.frameLengthOk := rfl
@[simp] theorem giveHost_checksumLengthOk (v : Byte) (s : State) : (giveHost v s).checksumLengthOk = s.checksumLengthOk := rfl
@[simp] theorem giveHost_txFrame (v : Byte) (s : State) : (giveHost v s).txFrame = s.txFrame := rfl
@[simp] theorem giveHostAny_waitLimit (s : State) : (giveHostAny s).waitLimit = s.waitLimit := rfl
@[simp] theorem giveHostAny_inBytes (s : State) : (giveHostAny s).inBytes = s.inBytes := rfl
@[simp] theorem giveHostAny_frameLengthOk (s : State) : (giveHostAny s).frameLengthOk = s.frameLengthOk := rfl
@[simp] theorem giveHostAny_checksumLengthOk (s : State) : (giveHostAny s).checksumLengthOk = s.checksumLengthOk := rfl
@[simp] theorem giveHostAny_txFrame (s : State) : (giveHostAny s).txFrame = s.txFrame := rfl

/-! ### resetNow -/

@[simp] theorem resetNow_cmd (s : State) : (resetNow s).cmd = (State.resetWith s.params (s.epoch + 1) (Config.resetByte (s.epoch + 1))).cmd := rfl
@[simp] theorem resetNow_busy (s : State) : (resetNow s).busy = (State.resetWith s.params (s.epoch + 1) (Config.resetByte (s.epoch + 1))).busy := rfl
@[simp] theorem resetNow_done (s : State) : (resetNow s).done = (State.resetWith s.params (s.epoch + 1) (Config.resetByte (s.epoch + 1))).done := rfl
@[simp] theorem resetNow_rej (s : State) : (resetNow s).rej = (State.resetWith s.params (s.epoch + 1) (Config.resetByte (s.epoch + 1))).rej := rfl
@[simp] theorem resetNow_code (s : State) : (resetNow s).code = (State.resetWith s.params (s.epoch + 1) (Config.resetByte (s.epoch + 1))).code := rfl
@[simp] theorem resetNow_phase (s : State) : (resetNow s).phase = (State.resetWith s.params (s.epoch + 1) (Config.resetByte (s.epoch + 1))).phase := rfl
@[simp] theorem resetNow_endPhase (s : State) : (resetNow s).endPhase = (State.resetWith s.params (s.epoch + 1) (Config.resetByte (s.epoch + 1))).endPhase := rfl
@[simp] theorem resetNow_inLen (s : State) : (resetNow s).inLen = (State.resetWith s.params (s.epoch + 1) (Config.resetByte (s.epoch + 1))).inLen := rfl
@[simp] theorem resetNow_csum (s : State) : (resetNow s).csum = (State.resetWith s.params (s.epoch + 1) (Config.resetByte (s.epoch + 1))).csum := rfl
@[simp] theorem resetNow_txLen (s : State) : (resetNow s).txLen = (State.resetWith s.params (s.epoch + 1) (Config.resetByte (s.epoch + 1))).txLen := rfl
@[simp] theorem resetNow_ackCount (s : State) : (resetNow s).ackCount = (State.resetWith s.params (s.epoch + 1) (Config.resetByte (s.epoch + 1))).ackCount := rfl
@[simp] theorem resetNow_ackResult (s : State) : (resetNow s).ackResult = (State.resetWith s.params (s.epoch + 1) (Config.resetByte (s.epoch + 1))).ackResult := rfl
@[simp] theorem resetNow_rxCount (s : State) : (resetNow s).rxCount = (State.resetWith s.params (s.epoch + 1) (Config.resetByte (s.epoch + 1))).rxCount := rfl
@[simp] theorem resetNow_respFlags (s : State) : (resetNow s).respFlags = (State.resetWith s.params (s.epoch + 1) (Config.resetByte (s.epoch + 1))).respFlags := rfl
@[simp] theorem resetNow_respLen (s : State) : (resetNow s).respLen = (State.resetWith s.params (s.epoch + 1) (Config.resetByte (s.epoch + 1))).respLen := rfl
@[simp] theorem resetNow_respAvail (s : State) : (resetNow s).respAvail = (State.resetWith s.params (s.epoch + 1) (Config.resetByte (s.epoch + 1))).respAvail := rfl
@[simp] theorem resetNow_pollLimit (s : State) : (resetNow s).pollLimit = (State.resetWith s.params (s.epoch + 1) (Config.resetByte (s.epoch + 1))).pollLimit := rfl
@[simp] theorem resetNow_settleTicks (s : State) : (resetNow s).settleTicks = (State.resetWith s.params (s.epoch + 1) (Config.resetByte (s.epoch + 1))).settleTicks := rfl
@[simp] theorem resetNow_endTxnEn (s : State) : (resetNow s).endTxnEn = (State.resetWith s.params (s.epoch + 1) (Config.resetByte (s.epoch + 1))).endTxnEn := rfl
@[simp] theorem resetNow_pollCount (s : State) : (resetNow s).pollCount = (State.resetWith s.params (s.epoch + 1) (Config.resetByte (s.epoch + 1))).pollCount := rfl
@[simp] theorem resetNow_inBuf (s : State) : (resetNow s).inBuf = (State.resetWith s.params (s.epoch + 1) (Config.resetByte (s.epoch + 1))).inBuf := rfl
@[simp] theorem resetNow_txBuf (s : State) : (resetNow s).txBuf = (State.resetWith s.params (s.epoch + 1) (Config.resetByte (s.epoch + 1))).txBuf := rfl
@[simp] theorem resetNow_ackBuf (s : State) : (resetNow s).ackBuf = (State.resetWith s.params (s.epoch + 1) (Config.resetByte (s.epoch + 1))).ackBuf := rfl
@[simp] theorem resetNow_rxBuf (s : State) : (resetNow s).rxBuf = (State.resetWith s.params (s.epoch + 1) (Config.resetByte (s.epoch + 1))).rxBuf := rfl
@[simp] theorem resetNow_payload (s : State) : (resetNow s).payload = (State.resetWith s.params (s.epoch + 1) (Config.resetByte (s.epoch + 1))).payload := rfl
@[simp] theorem resetNow_req (s : State) : (resetNow s).req = (State.resetWith s.params (s.epoch + 1) (Config.resetByte (s.epoch + 1))).req := rfl
@[simp] theorem resetNow_sampleDue (s : State) : (resetNow s).sampleDue = (State.resetWith s.params (s.epoch + 1) (Config.resetByte (s.epoch + 1))).sampleDue := rfl
@[simp] theorem resetNow_settleCnt (s : State) : (resetNow s).settleCnt = (State.resetWith s.params (s.epoch + 1) (Config.resetByte (s.epoch + 1))).settleCnt := rfl
@[simp] theorem resetNow_inputs (s : State) : (resetNow s).inputs = s.inputs := rfl
@[simp] theorem resetNow_rdData (s : State) : (resetNow s).rdData = s.rdData := rfl
@[simp] theorem resetNow_draws (s : State) : (resetNow s).draws = s.draws := rfl
@[simp] theorem resetNow_epoch (s : State) : (resetNow s).epoch = s.epoch + 1 := rfl
@[simp] theorem resetNow_params (s : State) : (resetNow s).params = s.params := rfl

end Sys2Proof.Machine
end

