-- ==== Sys2Proof/Laws/RegMap.lean ====
section
/-! SUPPORT. The register map: what each address names, and how a claim about every byte of the host register space
comes down to one case per register (spec/10_state.md rule R16). -/

namespace Sys2Proof.Machine

/-- The halves of a 16-bit register after a write of its low byte. -/
@[simp] theorem setLow_low (x : BitVec 16) (v : Byte) :
    ((x &&& 0xFF00#16) ||| v.setWidth 16).extractLsb' 0 8 = v := by
  ext i hi
  simp
  interval_cases i <;> simp

@[simp] theorem setLow_high (x : BitVec 16) (v : Byte) :
    ((x &&& 0xFF00#16) ||| v.setWidth 16).extractLsb' 8 8 = x.extractLsb' 8 8 := by
  ext i hi
  simp
  interval_cases i <;> simp

/-- The halves of a 16-bit register after a write of its high byte. -/
@[simp] theorem setHigh_low (x : BitVec 16) (v : Byte) :
    ((x &&& 0x00FF#16) ||| (v.setWidth 16 <<< 8)).extractLsb' 0 8 = x.extractLsb' 0 8 := by
  ext i hi
  simp
  interval_cases i <;> simp

@[simp] theorem setHigh_high (x : BitVec 16) (v : Byte) :
    ((x &&& 0x00FF#16) ||| (v.setWidth 16 <<< 8)).extractLsb' 8 8 = v := by
  ext i hi
  simp
  interval_cases i <;> simp

/-- Bit 0 of a byte as a flag is the byte with its other bits cleared. -/
theorem flagBit_getLsbD_zero : ∀ v : Byte, flagBit (v.getLsbD 0) 0 = v &&& 0x01#8 := by decide

/-- The host address of a register; reserved addresses have none. -/
def Reg.addr : Reg → Nat
  | .cmd => 0x000
  | .status => 0x001
  | .code => 0x002
  | .phase => 0x003
  | .endPhase => 0x004
  | .inLen => 0x005
  | .csum => 0x006
  | .txLen => 0x007
  | .ackCount => 0x008
  | .ackResult => 0x009
  | .rxCount => 0x00A
  | .respFlags => 0x00B
  | .respLenLo => 0x00C
  | .respLenHi => 0x00D
  | .respAvail => 0x00E
  | .pollLimitLo => 0x010
  | .pollLimitHi => 0x011
  | .settleTicks => 0x012
  | .ctrl => 0x013
  | .pollCountLo => 0x014
  | .pollCountHi => 0x015
  | .inBuf i => 0x020 + i.val
  | .txBuf i => 0x060 + i.val
  | .ackBuf i => 0x0A8 + i.val
  | .rxBuf i => 0x0B0 + i.val
  | .payload i => 0x100 + i.val
  | .reserved => 0x200

section
set_option maxRecDepth 100000

theorem regAt_addr : ∀ a : Addr, regAt a ≠ .reserved → (regAt a).addr = a.toNat := by decide

theorem regAt_volatile : ∀ a : Addr, (regAt a).volatile = volatileAddr a.toNat := by decide

theorem regAt_writable : ∀ a : Addr, (regAt a).writable = writableAddr a.toNat := by decide

theorem regAt_reserved : ∀ a : Addr, (regAt a = .reserved) ↔ reservedAddr a.toNat = true := by decide

theorem regAt_inBuf : ∀ i : Fin 64, regAt (BitVec.ofNat 9 (0x020 + i.val)) = .inBuf i := by decide

theorem regAt_txBuf : ∀ i : Fin 65, regAt (BitVec.ofNat 9 (0x060 + i.val)) = .txBuf i := by decide

theorem regAt_ackBuf : ∀ i : Fin 7, regAt (BitVec.ofNat 9 (0x0A8 + i.val)) = .ackBuf i := by decide

theorem regAt_rxBuf : ∀ i : Fin 64, regAt (BitVec.ofNat 9 (0x0B0 + i.val)) = .rxBuf i := by decide

theorem regAt_payload : ∀ i : Fin 62, regAt (BitVec.ofNat 9 (0x100 + i.val)) = .payload i := by decide

end

/-- CMD stands at 0x000 and nowhere else. -/
theorem regAt_eq_cmd (a : Addr) : regAt a = .cmd ↔ a = 0#9 := by
  refine ⟨fun h => ?_, fun h => by subst h; rfl⟩
  have := regAt_addr a (by rw [h]; decide)
  rw [h] at this
  exact BitVec.eq_of_toNat_eq this.symm

/-- Two addresses that name the same register, other than reserved ones, are one. -/
theorem regAt_injective {a b : Addr} (h : regAt a = regAt b) (hr : regAt b ≠ .reserved) : a = b := by
  have ha := regAt_addr a (h ▸ hr)
  rw [h, regAt_addr b hr] at ha
  exact BitVec.eq_of_toNat_eq ha.symm

/-- A claim about every byte outside some addresses, register by register. -/
theorem sameBytesExcept_of_regs {addrs : List Nat} {s t : State}
    (h : ∀ r : Reg, r.addr ∉ addrs → t.regByte r = s.regByte r) : SameBytesExcept addrs s t := by
  intro a ha
  by_cases hr : regAt a = .reserved
  · simp [State.peek, hr, State.regByte]
  · exact h _ (regAt_addr a hr ▸ ha)

@[simp] theorem peek_cmd (s : State) : s.peek 0x000#9 = s.cmd := rfl
@[simp] theorem peek_status (s : State) : s.peek 0x001#9 = s.statusByte := rfl
@[simp] theorem peek_code (s : State) : s.peek 0x002#9 = s.code.toByte := rfl
@[simp] theorem peek_phase (s : State) : s.peek 0x003#9 = s.phase.toByte := rfl
@[simp] theorem peek_endPhase (s : State) : s.peek 0x004#9 = s.endPhase.toByte := rfl
@[simp] theorem peek_inLen (s : State) : s.peek 0x005#9 = s.inLen := rfl
@[simp] theorem peek_csum (s : State) : s.peek 0x006#9 = s.csum := rfl
@[simp] theorem peek_txLen (s : State) : s.peek 0x007#9 = s.txLen := rfl
@[simp] theorem peek_ackCount (s : State) : s.peek 0x008#9 = s.ackCount := rfl
@[simp] theorem peek_ackResult (s : State) : s.peek 0x009#9 = s.ackResult.toByte := rfl
@[simp] theorem peek_rxCount (s : State) : s.peek 0x00A#9 = s.rxCount := rfl
@[simp] theorem peek_respFlags (s : State) : s.peek 0x00B#9 = s.respFlags.toByte := rfl
@[simp] theorem peek_respLenLo (s : State) : s.peek 0x00C#9 = s.respLen.extractLsb' 0 8 := rfl
@[simp] theorem peek_respLenHi (s : State) : s.peek 0x00D#9 = (s.respLen.extractLsb' 8 1).setWidth 8 := rfl
@[simp] theorem peek_respAvail (s : State) : s.peek 0x00E#9 = s.respAvail := rfl
@[simp] theorem peek_pollLimitLo (s : State) : s.peek 0x010#9 = s.pollLimit.extractLsb' 0 8 := rfl
@[simp] theorem peek_pollLimitHi (s : State) : s.peek 0x011#9 = s.pollLimit.extractLsb' 8 8 := rfl
@[simp] theorem peek_settleTicks (s : State) : s.peek 0x012#9 = s.settleTicks := rfl
@[simp] theorem peek_ctrl (s : State) : s.peek 0x013#9 = flagBit s.endTxnEn 0 := rfl
@[simp] theorem peek_pollCountLo (s : State) : s.peek 0x014#9 = s.pollCount.extractLsb' 0 8 := rfl
@[simp] theorem peek_pollCountHi (s : State) : s.peek 0x015#9 = s.pollCount.extractLsb' 8 8 := rfl

theorem peek_inBuf (s : State) (i : Nat) (h : i < 64) : s.peek (BitVec.ofNat 9 (0x020 + i)) = s.inBuf[i] := by
  simp only [State.peek, regAt_inBuf ⟨i, h⟩]; rfl

theorem peek_txBuf (s : State) (i : Nat) (h : i < 65) : s.peek (BitVec.ofNat 9 (0x060 + i)) = s.txBuf[i] := by
  simp only [State.peek, regAt_txBuf ⟨i, h⟩]; rfl

theorem peek_ackBuf (s : State) (i : Nat) (h : i < 7) : s.peek (BitVec.ofNat 9 (0x0A8 + i)) = s.ackBuf[i] := by
  simp only [State.peek, regAt_ackBuf ⟨i, h⟩]; rfl

theorem peek_rxBuf (s : State) (i : Nat) (h : i < 64) : s.peek (BitVec.ofNat 9 (0x0B0 + i)) = s.rxBuf[i] := by
  simp only [State.peek, regAt_rxBuf ⟨i, h⟩]; rfl

theorem peek_payload (s : State) (i : Nat) (h : i < 62) : s.peek (BitVec.ofNat 9 (0x100 + i)) = s.payload[i] := by
  simp only [State.peek, regAt_payload ⟨i, h⟩]; rfl

/-- A buffer as the host sees it is the front of the buffer. -/
theorem peekRange_eq_take {m : Nat} {s : State} {base n : Nat} {buf : Vector Byte m}
    (h : ∀ i (hi : i < m), s.peek (BitVec.ofNat 9 (base + i)) = buf[i]) (hn : n ≤ m) :
    s.peekRange base n = buf.toList.take n := by
  apply List.ext_getElem
  · simp [State.peekRange, hn]
  · intro i h1 h2
    have hi : i < n := by simpa [State.peekRange] using h1
    simp [State.peekRange, h i (by omega)]

theorem peekRange_inBuf (s : State) {n : Nat} (h : n ≤ 64) : s.peekRange 0x020 n = s.inBuf.toList.take n :=
  peekRange_eq_take (fun i hi => peek_inBuf s i hi) h

theorem peekRange_txBuf (s : State) {n : Nat} (h : n ≤ 65) : s.peekRange 0x060 n = s.txBuf.toList.take n :=
  peekRange_eq_take (fun i hi => peek_txBuf s i hi) h

theorem peekRange_ackBuf (s : State) {n : Nat} (h : n ≤ 7) : s.peekRange 0x0A8 n = s.ackBuf.toList.take n :=
  peekRange_eq_take (fun i hi => peek_ackBuf s i hi) h

theorem peekRange_rxBuf (s : State) {n : Nat} (h : n ≤ 64) : s.peekRange 0x0B0 n = s.rxBuf.toList.take n :=
  peekRange_eq_take (fun i hi => peek_rxBuf s i hi) h

theorem peekRange_payload (s : State) {n : Nat} (h : n ≤ 62) : s.peekRange 0x100 n = s.payload.toList.take n :=
  peekRange_eq_take (fun i hi => peek_payload s i hi) h

/-- The addresses of a range. -/
theorem mem_addrRange {base n a : Nat} : a ∈ addrRange base n ↔ base ≤ a ∧ a < base + n := by
  simp only [addrRange, List.mem_map, List.mem_range]
  exact ⟨fun ⟨i, hi, h⟩ => by omega, fun h => ⟨a - base, by omega, by omega⟩⟩

/-- What a host address reads as does not depend on the agents' turns. -/
@[simp] theorem peek_withInputs (s : State) (l : List Input) (a : Addr) :
    State.peek { s with inputs := l } a = s.peek a := by
  simp only [State.peek]
  cases regAt a <;> rfl

/-- A frame claim over the state that has taken a turn is one over the state before it. -/
theorem SameBytesExcept.of_withInputs {s t : State} {l : List Input} {addrs : List Nat}
    (h : SameBytesExcept addrs { s with inputs := l } t) : SameBytesExcept addrs s t := fun a ha => by
  rw [h a ha, peek_withInputs]

end Sys2Proof.Machine
end

