-- ==== Sys2Proof/Laws/Ops.lean ====
section
/-! SUPPORT. For each shared operation, once, everything it can do: provers cite these and do not unfold the
operations (spec/42_sequencer.md, spec/43_host_bus.md, spec/60_exceptions.md). -/

namespace Sys2Proof.Machine

/-- A command write answers a next state: dropped while BUSY, run otherwise (R18, R101). -/
theorem hostCommand_next {v : Byte} {run : State → State} {s t : State} (h : hostCommand v run s = .next t) :
    (s.busy = true ∧ t = rejectWrite s) ∨ (s.busy = false ∧ t = run (beginCommand v s)) := by
  unfold hostCommand at h
  cases h
  cases hb : s.busy <;> simp

theorem hostCommand_of_busy {v : Byte} {run : State → State} {s : State} (h : s.busy = true) :
    hostCommand v run s = .next (rejectWrite s) := by simp [hostCommand, h]

theorem hostCommand_of_idle {v : Byte} {run : State → State} {s : State} (h : s.busy = false) :
    hostCommand v run s = .next (run (beginCommand v s)) := by simp [hostCommand, h]

/-- RD answers a next state that differs in what the host got, and in the count of draws. -/
theorem execRd_next {a : Addr} {s t : State} (h : execRd a s = .next t) :
    t = giveHostAny s ∨ t = giveHost (s.peek a) s := by
  unfold execRd at h
  split at h <;> cases h
  · exact .inl rfl
  · exact .inr rfl

/-- WR answers a next state in one of four ways (R101). -/
theorem execWr_next {a : Addr} {v : Byte} {s t : State} (h : execWr a v s = .next t) :
    t = s ∨ (s.busy = true ∧ t = rejectWrite s) ∨ (s.busy = false ∧ t = writeReg (regAt a) v s) ∨
      (s.busy = false ∧ t = runCommand v (beginCommand v s)) := by
  unfold execWr at h
  split at h
  · obtain h | h := hostCommand_next h
    · exact .inr (.inl h)
    · exact .inr (.inr (.inr h))
  · split at h
    · cases h
      cases hb : s.busy <;> simp
    · cases h
      exact .inl rfl

/-- Which commands a code can run (R101). -/
theorem runCommand_cases (v : Byte) (s : State) :
    runCommand v s = runChecksum s ∨ runCommand v s = runEncode s ∨ runCommand v s = runDecode s ∨
      runCommand v s = runAckmatch s ∨ runCommand v s = runExchange s ∨ runCommand v s = runBadCmd s := by
  unfold runCommand
  split_ifs <;> simp

theorem completeWake_next {s t : State} (h : completeWake s = .next t) :
    s.phase = .wake ∧ s.req = .wake ∧ t = enterIssue .send (.send s.txFrame) s := by
  unfold completeWake at h
  split at h
  · rename_i hc
    cases h
    exact ⟨hc.1, hc.2, rfl⟩
  · cases h

theorem completeSend_next {s t : State} (h : completeSend s = .next t) :
    s.phase = .send ∧ s.req.isSend = true ∧ t = afterSend s := by
  unfold completeSend at h
  split at h
  · rename_i hc
    cases h
    exact ⟨hc.1, hc.2, rfl⟩
  · cases h

theorem completeRelease_next {s t : State} (h : completeRelease s = .next t) :
    (s.phase = .release1 ∧ t = enterWait .wait1 s) ∨ (s.phase = .release2 ∧ t = finish .ok s) := by
  unfold completeRelease at h
  split at h
  · rename_i hc
    cases h
    exact .inl ⟨hc.1, rfl⟩
  · split at h
    · rename_i hc
      cases h
      exact .inr ⟨hc.1, rfl⟩
    · cases h

theorem completeRecv_next {d : List Byte} {s t : State} (h : completeRecv d s = .next t) :
    (s.phase = .readAck ∧ d.length ≤ 7 ∧ t = afterRecvAck d s) ∨
      (s.phase = .readResp ∧ d.length ≤ 64 ∧ t = afterRecvResp d s) := by
  unfold completeRecv at h
  split at h
  · rename_i hc
    split at h
    · rename_i hd
      cases h
      exact .inl ⟨hc.1, hd, rfl⟩
    · cases h
  · split at h
    · rename_i hc
      split at h
      · rename_i hd
        cases h
        exact .inr ⟨hc.1, hd, rfl⟩
      · cases h
    · cases h

/-- The meaning of a chip opcode completes the Send that holds its frame, and nothing else. -/
theorem carryFrame_next {p : List Byte} {s t : State} (h : carryFrame p s = .next t) :
    s.req = .send (encodeFrame p) ∧ s.phase = .send ∧ t = afterSend s := by
  unfold carryFrame at h
  split at h
  · rename_i hr
    obtain ⟨hp, _, ht⟩ := completeSend_next h
    exact ⟨hr, hp, ht⟩
  · cases h

theorem carryFrame_of_req {p : List Byte} {s : State} (h : s.req = .send (encodeFrame p)) :
    carryFrame p s = completeSend s := by simp [carryFrame, h]

/-- enter_settle() leaves SETTLE, or READ_ACK at once when SETTLE_TICKS = 0 (R89). -/
theorem enterSettle_cases (s : State) :
    (s.settleTicks = 0#8 ∧ enterSettle s = enterReadAck (startSettle s)) ∨
      (s.settleTicks ≠ 0#8 ∧ enterSettle s = startSettle s) := by
  unfold enterSettle
  split
  · exact .inl ⟨‹_›, rfl⟩
  · exact .inr ⟨‹_›, rfl⟩

/-- A step of the machine: nothing acts, or the head of the agents' turns does (R12). -/
theorem step_next {s t : State} (h : step s = .next t) :
    (s.inputs = [] ∧ t = s) ∨
      (∃ e rest, s.inputs = e :: rest ∧ inputStep e { s with inputs := rest } = .next t) := by
  unfold step agentStep at h
  cases hi : s.inputs with
  | nil =>
    rw [hi] at h
    cases h
    exact .inl ⟨rfl, rfl⟩
  | cons e rest =>
    rw [hi] at h
    exact .inr ⟨e, rest, rfl, h⟩

theorem step_cons {s : State} {e : Input} {rest : List Input} (h : s.inputs = e :: rest) :
    step s = inputStep e { s with inputs := rest } := by
  simp only [step, agentStep, h]

/-- A bus word that answers a next state ran its instruction. -/
theorem busStep_next {w : BusWord} {s t : State} (h : busStep w s = .next t) :
    ∃ i, decode (.busWord w) = .ok i ∧ exec i s = .next t := by
  unfold busStep at h
  split at h
  · exact ⟨_, ‹_›, h⟩
  · cases h

/-- WAITIDLE reads STATUS and stays at the head of the turns while BUSY = 1. -/
theorem waitIdleStep_next {s t : State} (h : waitIdleStep s = .next t) :
    t = giveHost s.statusByte s ∨ t = { giveHost s.statusByte s with inputs := .waitIdle :: s.inputs } := by
  have hr : exec (.rd 0x001#9) s = .next (giveHost s.statusByte s) := by
    have hv : (regAt 0x001#9).volatile = false := rfl
    simp [exec, execRd, hv]
  rw [waitIdleStep, hr] at h
  simp only at h
  split at h <;> cases h
  · exact .inr rfl
  · exact .inl rfl

/-- The meaning of whatever a payload decodes to is to carry it (R109). -/
theorem exec_of_payload {p : List Byte} {i : Instr} (h : decode (.payload p) = .ok i) (s : State) :
    exec i s = carryFrame p s := by
  simp only [decode] at h
  cases p with
  | nil => cases h
  | cons op args =>
    simp only [decodePayload] at h
    split_ifs at h <;> try (cases h; subst_vars; rfl)
    match args with
    | [] => cases h; subst_vars; rfl
    | [_] => cases h; subst_vars; rfl
    | tg :: sub :: rest =>
      simp only [decodeDataExchange] at h
      split_ifs at h <;> cases h <;> subst_vars <;> rfl

/-- The completion of Send, whether or not the frame's opcode has a name (R84, R109). -/
theorem sendStep_eq (s : State) : sendStep s = completeSend s := by
  unfold sendStep
  split
  · rename_i frame hr
    unfold sentInstr
    cases hf : framePayload frame with
    | none => rfl
    | some p =>
      have hfr := framePayload_eq_some hf
      subst hfr
      cases hd : decode (.payload p) with
      | error _ => simp only [hd]
      | ok i =>
        simp only [hd]
        exact (exec_of_payload hd s).trans (carryFrame_of_req hr)
  · rfl

end Sys2Proof.Machine
end

