-- ==== Sys2Proof/Laws/PerInstr.lean ====
section
/-! SUPPORT. The statements made for every instruction, one lemma per constructor: an instruction whose operands are
well-formed is encoded in an encoding the spec gives a meaning (spec/30_encoding.md rules R59 and R67;
spec/00_scope.md rule R7). -/

namespace Sys2Proof.Laws

/-- The encoding of a well-formed instruction is a legal bus word or a payload of 1 to 59 bytes. -/
def LegalEncoding.Statement (i : Instr) : Prop := i.wf = true → (encode i).legal = true

/-- Bit k of a RD word: ADDR from bit 8, the rest 0. -/
theorem readWord_getLsbD (a : Addr) (k : Nat) (h : k < 18) :
    (readWord a).getLsbD k = (!decide (k < 8) && a.getLsbD (k - 8)) := by
  simp [readWord, h]

/-- Bit k of a WR word: DATA below bit 8, ADDR from bit 8, W = 1 at bit 17. -/
theorem writeWord_getLsbD (a : Addr) (v : Byte) (k : Nat) (h : k < 18) :
    (writeWord a v).getLsbD k = (decide (k = 17) || (!decide (k < 8) && a.getLsbD (k - 8)) || v.getLsbD k) := by
  have hw : (0x20000#18).getLsbD k = decide (k = 17) := by
    interval_cases k <;> rfl
  simp only [writeWord, BitVec.getLsbD_or, hw]
  simp [h]

/-- W of a RD word is 0. -/
theorem busW_readWord (a : Addr) : busW (readWord a) = false := by
  simp only [busW, readWord_getLsbD a 17 (by decide)]
  simp

/-- DATA of a RD word is 0x00. -/
theorem busData_readWord (a : Addr) : busData (readWord a) = 0#8 := by
  apply BitVec.eq_of_getLsbD_eq
  intro i hi
  simp only [busData, BitVec.getLsbD_extractLsb', Nat.zero_add, readWord_getLsbD a i (by omega)]
  simp [hi]

/-- ADDR of a RD word is its address. -/
theorem busAddr_readWord (a : Addr) : busAddr (readWord a) = a := by
  apply BitVec.eq_of_getLsbD_eq
  intro i hi
  simp only [busAddr, BitVec.getLsbD_extractLsb', readWord_getLsbD a (8 + i) (by omega)]
  simp [hi]

/-- W of a WR word is 1. -/
theorem busW_writeWord (a : Addr) (v : Byte) : busW (writeWord a v) = true := by
  simp only [busW, writeWord_getLsbD a v 17 (by decide)]
  simp

/-- DATA of a WR word is its byte. -/
theorem busData_writeWord (a : Addr) (v : Byte) : busData (writeWord a v) = v := by
  apply BitVec.eq_of_getLsbD_eq
  intro i hi
  simp only [busData, BitVec.getLsbD_extractLsb', Nat.zero_add, writeWord_getLsbD a v i (by omega)]
  simp [hi, show i ≠ 17 by omega]

/-- ADDR of a WR word is its address. -/
theorem busAddr_writeWord (a : Addr) (v : Byte) : busAddr (writeWord a v) = a := by
  apply BitVec.eq_of_getLsbD_eq
  intro i hi
  simp only [busAddr, BitVec.getLsbD_extractLsb', writeWord_getLsbD a v (8 + i) (by omega)]
  simp [hi, show 8 + i ≠ 17 by omega]

/-- A payload of an opcode and at most 58 bytes is legal. -/
theorem payload_legal {op : Byte} {args : List Byte} (h : args.length + 1 ≤ Config.inMax) :
    (Encoding.payload (op :: args)).legal = true := by simp [Encoding.legal, h]

/-- A payload of a sub-command and at most 56 bytes is legal. -/
theorem subPayload_legal {sub tg : Byte} {args : List Byte} (h : args.length + 3 ≤ Config.inMax) :
    (Encoding.payload (subPayload sub tg args)).legal = true := by simp [Encoding.legal, subPayload, h]

theorem LegalEncoding.rd (a : Addr) : LegalEncoding.Statement (.rd a) := fun _ => by
  simp [Sys2Proof.encode, Encoding.legal, busData_readWord]

theorem LegalEncoding.wr (a : Addr) (v : Byte) : LegalEncoding.Statement (.wr a v) := fun _ => by
  simp [Sys2Proof.encode, Encoding.legal, busW_writeWord]

theorem LegalEncoding.checksum : LegalEncoding.Statement .checksum := fun _ => by
  simp [Sys2Proof.encode, Encoding.legal, busW_writeWord]

theorem LegalEncoding.encode : LegalEncoding.Statement .encode := fun _ => by
  simp [Sys2Proof.encode, Encoding.legal, busW_writeWord]

theorem LegalEncoding.decode : LegalEncoding.Statement .decode := fun _ => by
  simp [Sys2Proof.encode, Encoding.legal, busW_writeWord]

theorem LegalEncoding.ackmatch : LegalEncoding.Statement .ackmatch := fun _ => by
  simp [Sys2Proof.encode, Encoding.legal, busW_writeWord]

theorem LegalEncoding.exchange : LegalEncoding.Statement .exchange := fun _ => by
  simp [Sys2Proof.encode, Encoding.legal, busW_writeWord]

theorem LegalEncoding.badCmd (code : Byte) : LegalEncoding.Statement (.badCmd code) := fun _ => by
  simp [Sys2Proof.encode, Encoding.legal, busW_writeWord]

theorem LegalEncoding.getFirmwareVersion (args : List Byte) : LegalEncoding.Statement (.getFirmwareVersion args) := fun h =>
  payload_legal (of_decide_eq_true h)

theorem LegalEncoding.samConfiguration (args : List Byte) : LegalEncoding.Statement (.samConfiguration args) := fun h =>
  payload_legal (of_decide_eq_true h)

theorem LegalEncoding.rfConfiguration (args : List Byte) : LegalEncoding.Statement (.rfConfiguration args) := fun h =>
  payload_legal (of_decide_eq_true h)

theorem LegalEncoding.inListPassiveTarget (args : List Byte) : LegalEncoding.Statement (.inListPassiveTarget args) := fun h =>
  payload_legal (of_decide_eq_true h)

theorem LegalEncoding.inDataExchange (args : List Byte) : LegalEncoding.Statement (.inDataExchange args) := fun h =>
  payload_legal (of_decide_eq_true (Bool.and_eq_true_iff.mp h).1)

theorem LegalEncoding.authenticateA (tg : Byte) (args : List Byte) : LegalEncoding.Statement (.authenticateA tg args) := fun h =>
  subPayload_legal (of_decide_eq_true h)

theorem LegalEncoding.authenticateB (tg : Byte) (args : List Byte) : LegalEncoding.Statement (.authenticateB tg args) := fun h =>
  subPayload_legal (of_decide_eq_true h)

theorem LegalEncoding.read16 (tg : Byte) (args : List Byte) : LegalEncoding.Statement (.read16 tg args) := fun h =>
  subPayload_legal (of_decide_eq_true h)

theorem LegalEncoding.write16 (tg : Byte) (args : List Byte) : LegalEncoding.Statement (.write16 tg args) := fun h =>
  subPayload_legal (of_decide_eq_true h)

theorem LegalEncoding.increment (tg : Byte) (args : List Byte) : LegalEncoding.Statement (.increment tg args) := fun h =>
  subPayload_legal (of_decide_eq_true h)

theorem LegalEncoding.decrement (tg : Byte) (args : List Byte) : LegalEncoding.Statement (.decrement tg args) := fun h =>
  subPayload_legal (of_decide_eq_true h)

theorem LegalEncoding.transfer (tg : Byte) (args : List Byte) : LegalEncoding.Statement (.transfer tg args) := fun h =>
  subPayload_legal (of_decide_eq_true h)

end Sys2Proof.Laws
end

