-- ==== Sys2Proof/Machine/Script.lean ====
section
/-! DEFINITION. Host programs and test scripts (spec/30_encoding.md rule R68; spec/43_host_bus.md rules R105 and
R106): pseudo-operations expand to RD and WR, and a script becomes the list of steps its lines stand for, with
the sequencer sampled eagerly. -/

namespace Sys2Proof.Machine

/-- One line of a test script (R68). -/
inductive Line where
  | rd (addr : Addr)
  | wr (addr : Addr) (data : Byte)
  | checksum
  | encode
  | decode
  | ackmatch
  | exchange
  | setLen (n : Byte)
  | fill (base : Addr) (bytes : List Byte)
  | waitIdle
  | setLimit (v : BitVec 16)
  | tick
  | ready (level : Bool)
  | doneWake
  | doneSend
  | doneRelease
  | doneRecv (bytes : List Byte)
  deriving DecidableEq, Repr

/-- `FILL base, [b0, ..., bk]`: the byte writes, in index order (R105). base + i is a 9-bit address; the spec does
not say what a FILL that runs past 0x1FF does, and here it goes on at 0x000, which is CMD.
DESIGN CHOICE, unsafe: notes/assumptions/22.md. -/
def fillWords : Addr → List Byte → List Input
  | _, [] => []
  | a, b :: bs => .bus (writeWord a b) :: fillWords (a + 1#9) bs

/-- The steps a line stands for (R68, R105, R106). A READY line is no step: it sets the level the samples draw. -/
def Line.inputs : Line → List Input
  | .rd a => [.bus (readWord a)]
  | .wr a v => [.bus (writeWord a v)]
  | .checksum => [.bus (writeWord 0x000#9 0x01#8)]
  | .encode => [.bus (writeWord 0x000#9 0x02#8)]
  | .decode => [.bus (writeWord 0x000#9 0x03#8)]
  | .ackmatch => [.bus (writeWord 0x000#9 0x04#8)]
  | .exchange => [.bus (writeWord 0x000#9 0x05#8)]
  | .setLen n => [.bus (writeWord 0x005#9 n)]
  | .fill base bytes => fillWords base bytes
  | .waitIdle => [.waitIdle]
  | .setLimit v => [.bus (writeWord 0x010#9 (v.extractLsb' 0 8)), .bus (writeWord 0x011#9 (v.extractLsb' 8 8))]
  | .tick => [.tick]
  | .ready _ => []
  | .doneWake => [.doneWake]
  | .doneSend => [.doneSend]
  | .doneRelease => [.doneRelease]
  | .doneRecv d => [.doneRecv d]

/-- The level of ready_in after a line: it "holds until the next READY line" (R106). -/
def Line.levelAfter (level : Bool) : Line → Bool
  | .ready v => v
  | _ => level

/-- The steps of a script. "After every line, the sample step of 42_sequencer.md rule R87 is taken if it is
enabled, and it draws the current ready_in level" (R106); where it is not enabled it changes no state (R94), so a
sample follows every line. The level is that of ready_in before the lines.
DEDUCED, safe: notes/assumptions/15.md. -/
def scriptInputs (level : Bool) : List Line → List Input
  | [] => []
  | l :: ls => l.inputs ++ .sample (l.levelAfter level) :: scriptInputs (l.levelAfter level) ls

/-- The steps of a whole test script: "Before the first `READY` line, it is 0" (R106). -/
def script (lines : List Line) : List Input := scriptInputs false lines

end Sys2Proof.Machine
end

