-- ==== Sys2Proof/Tests/Slice0.lean ====
section
/-! SUPPORT. Tests: ill-formed terms refused, words written out from the spec's encodings, one step on small states
against spec/95_test_vectors.md, and a witness for the hypotheses of every obligation that has some. -/

namespace Sys2Proof.Tests

open Sys2Proof Sys2Proof.Machine

set_option maxRecDepth 20000

/-! ### States the tests use -/

/-- Reset with the default parameters and every buffer byte 0x00, so that a test can compute. -/
def base : State := State.resetWith Params.vectors 0 fun _ => 0x00#8

/-- IN_BUF[0..n) and IN_LEN = n, as a host fills them. -/
def withIn (bs : List Byte) (n : Byte) : State := { base with inBuf := overlay base.inBuf bs, inLen := n }

/-- RX_BUF[0..c) and RX_COUNT = c. -/
def withRx (bs : List Byte) : State :=
  { base with rxBuf := overlay base.rxBuf bs, rxCount := BitVec.ofNat 8 bs.length }

/-- ACK_BUF[0..6] and ACK_COUNT = c. -/
def withAck (bs : List Byte) (c : Byte) : State := { base with ackBuf := overlay base.ackBuf bs, ackCount := c }

/-- An exchange in flight with the frame of GetFirmwareVersion, in a phase with its request and the steps to come. -/
def flying (p : Phase) (r : Req) (steps : List Input) : State :=
  { placeFrame [0x02#8] base with
    phase := p
    req := r
    inputs := steps
    sampleDue := p.isWait
    pollLimit := 3#16
    endTxnEn := p == .release1 || p == .release2 }

/-- The next state, if that is the answer. -/
def nextOf : Answer → Option State
  | .next t => some t
  | _ => none

/-- What a test looks at in the next state. -/
def see {α : Type} (a : Answer) (f : State → α) : Option α := (nextOf a).map f

/-- STATUS, CODE, END_PHASE as a host reads them. -/
def outcome (s : State) : Byte × Byte × Byte := (s.peek 0x001#9, s.peek 0x002#9, s.peek 0x004#9)

/-! ### Ill-formed terms, one for each check -/

theorem test_wf_wr_cmd : (Instr.wr 0x000#9 0x02#8).wf = false := by decide
theorem test_wf_badCmd_defined : (Instr.badCmd 0x03#8).wf = false ∧ (Instr.badCmd 0x05#8).wf = false := by decide
theorem test_wf_badCmd_reserved : (Instr.badCmd 0x00#8).wf = true ∧ (Instr.badCmd 0x06#8).wf = true := by decide
theorem test_wf_getFirmwareVersion_long : (Instr.getFirmwareVersion (List.replicate 59 0#8)).wf = false := by decide
theorem test_wf_samConfiguration_long : (Instr.samConfiguration (List.replicate 59 0#8)).wf = false := by decide
theorem test_wf_rfConfiguration_long : (Instr.rfConfiguration (List.replicate 59 0#8)).wf = false := by decide
theorem test_wf_inListPassiveTarget_long : (Instr.inListPassiveTarget (List.replicate 59 0#8)).wf = false := by decide
theorem test_wf_inDataExchange_long : (Instr.inDataExchange (List.replicate 59 0#8)).wf = false := by decide
theorem test_wf_inDataExchange_sub : (Instr.inDataExchange [0x01#8, 0x30#8, 0x04#8]).wf = false := by decide
theorem test_wf_authenticateA_long : (Instr.authenticateA 0x01#8 (List.replicate 57 0#8)).wf = false := by decide
theorem test_wf_authenticateB_long : (Instr.authenticateB 0x01#8 (List.replicate 57 0#8)).wf = false := by decide
theorem test_wf_read16_long : (Instr.read16 0x01#8 (List.replicate 57 0#8)).wf = false := by decide
theorem test_wf_write16_long : (Instr.write16 0x01#8 (List.replicate 57 0#8)).wf = false := by decide
theorem test_wf_increment_long : (Instr.increment 0x01#8 (List.replicate 57 0#8)).wf = false := by decide
theorem test_wf_decrement_long : (Instr.decrement 0x01#8 (List.replicate 57 0#8)).wf = false := by decide
theorem test_wf_transfer_long : (Instr.transfer 0x01#8 (List.replicate 57 0#8)).wf = false := by decide
theorem test_wf_longest : (Instr.getFirmwareVersion (List.replicate 58 0#8)).wf = true ∧
    (Instr.transfer 0x01#8 (List.replicate 56 0#8)).wf = true := by decide

/-! ### Decoding: words written out bit by bit from 30_encoding.md R59, R60 and 44_wire_opcodes.md R110 to R122 -/

/-- W = 0, ADDR = 0 0000 0001, DATA = 0: RD 0x001 (R100). -/
theorem test_decode_rd : decode (.busWord 0b0_000000001_00000000#18) = .ok (.rd 0x001#9) := by rfl
/-- W = 1, ADDR = 0 0000 0101, DATA = 0000 0010: WR 0x005, 0x02 (R101). -/
theorem test_decode_wr : decode (.busWord 0b1_000000101_00000010#18) = .ok (.wr 0x005#9 0x02#8) := by rfl
theorem test_decode_checksum : decode (.busWord 0b1_000000000_00000001#18) = .ok .checksum := by rfl
theorem test_decode_encode : decode (.busWord 0b1_000000000_00000010#18) = .ok .encode := by rfl
theorem test_decode_decode : decode (.busWord 0b1_000000000_00000011#18) = .ok .decode := by rfl
theorem test_decode_ackmatch : decode (.busWord 0b1_000000000_00000100#18) = .ok .ackmatch := by rfl
theorem test_decode_exchange : decode (.busWord 0b1_000000000_00000101#18) = .ok .exchange := by rfl
theorem test_decode_badCmd : decode (.busWord 0b1_000000000_00000111#18) = .ok (.badCmd 0x07#8) := by rfl
theorem test_decode_badCmd_zero : decode (.busWord 0b1_000000000_00000000#18) = .ok (.badCmd 0x00#8) := by rfl
/-- Vector B14: a RD with DATA = 05 is illegal (R67). -/
theorem test_decode_rd_with_data : decode (.busWord 0x00105#18) = .error .readWithData := by rfl
theorem test_decode_getFirmwareVersion : decode (.payload [0x02#8]) = .ok (.getFirmwareVersion []) := by rfl
theorem test_decode_samConfiguration : decode (.payload [0x14#8, 0x01#8, 0x14#8, 0x01#8]) =
    .ok (.samConfiguration [0x01#8, 0x14#8, 0x01#8]) := by rfl
theorem test_decode_rfConfiguration : decode (.payload [0x32#8, 0x01#8, 0x01#8]) =
    .ok (.rfConfiguration [0x01#8, 0x01#8]) := by rfl
theorem test_decode_inListPassiveTarget : decode (.payload [0x4A#8, 0x01#8, 0x00#8]) =
    .ok (.inListPassiveTarget [0x01#8, 0x00#8]) := by rfl
theorem test_decode_inDataExchange : decode (.payload [0x40#8, 0x01#8, 0x31#8]) =
    .ok (.inDataExchange [0x01#8, 0x31#8]) := by rfl
theorem test_decode_authenticateA : decode (.payload [0x40#8, 0x01#8, 0x60#8, 0x04#8]) =
    .ok (.authenticateA 0x01#8 [0x04#8]) := by rfl
theorem test_decode_authenticateB : decode (.payload [0x40#8, 0x01#8, 0x61#8, 0x04#8]) =
    .ok (.authenticateB 0x01#8 [0x04#8]) := by rfl
theorem test_decode_read16 : decode (.payload [0x40#8, 0x01#8, 0x30#8, 0x04#8]) =
    .ok (.read16 0x01#8 [0x04#8]) := by rfl
theorem test_decode_write16 : decode (.payload [0x40#8, 0x01#8, 0xA0#8, 0x04#8]) =
    .ok (.write16 0x01#8 [0x04#8]) := by rfl
theorem test_decode_increment : decode (.payload [0x40#8, 0x01#8, 0xC1#8, 0x04#8]) =
    .ok (.increment 0x01#8 [0x04#8]) := by rfl
theorem test_decode_decrement : decode (.payload [0x40#8, 0x01#8, 0xC0#8, 0x04#8]) =
    .ok (.decrement 0x01#8 [0x04#8]) := by rfl
theorem test_decode_transfer : decode (.payload [0x40#8, 0x01#8, 0xB0#8, 0x04#8]) =
    .ok (.transfer 0x01#8 [0x04#8]) := by rfl
theorem test_decode_unlisted : decode (.payload [0xFF#8]) = .error (.unlistedOpcode 0xFF#8) := by rfl
theorem test_decode_empty : decode (.payload []) = .error .emptyPayload := by rfl
theorem test_decode_too_long : decode (.payload (List.replicate 60 0x02#8)) = .error .payloadTooLong := by rfl

/-- The table's rows: a bus word in 24 bits, a wire opcode and a sub-command in 8. -/
theorem test_table_bus : decodeTableWord 24 0x20502 = some (.wr 0x005#9 0x02#8) := by decide
theorem test_table_opcode : decodeTableWord 8 0x4A = some (.inListPassiveTarget []) := by decide
theorem test_table_subcommand : decodeTableWord 8 0xC1 = some (.increment 0x01#8 []) := by decide
theorem test_table_too_wide : decodeTableWord 24 0x40000 = none ∧ decodeTableWord 8 0x100 = none := by decide

/-- The arguments of the sub-commands (R116, R119 to R121); S9: a delta of 20 travels as 14 00 00 00. -/
theorem test_args_delta : deltaArgs 0x04#8 20#32 = [0x04#8, 0x14#8, 0x00#8, 0x00#8, 0x00#8] := by decide
theorem test_args_authenticate :
    (authenticateArgs 0x04#8 (Vector.replicate 6 0xFF#8) #v[0x01#8, 0x02#8, 0x03#8, 0x04#8]).length = 11 := by decide
theorem test_args_write16 : (write16Args 0x04#8 (Vector.replicate 16 0x00#8)).length = 17 := by decide

/-! ### One step against spec/95_test_vectors.md -/

/-- B1, B2, B3: reset STATUS reads 00 and reserved addresses read 00. -/
theorem test_rd_status : see (exec (.rd 0x001#9) { base with rdData := 0xEE#8 }) (·.rdData) = some 0x00#8 := by decide
theorem test_rd_reserved : see (exec (.rd 0x1FF#9) { base with rdData := 0xEE#8 }) (·.rdData) = some 0x00#8 := by decide
/-- B4, B6: ACK_COUNT clamps to 7, CTRL keeps bit 0. -/
theorem test_wr_ackCount : see (exec (.wr 0x008#9 0xFF#8) base) (·.ackCount) = some 0x07#8 := by decide
theorem test_wr_ctrl : see (exec (.wr 0x013#9 0xFF#8) base) (·.peek 0x013#9) = some 0x01#8 := by decide
/-- K5 and K12. -/
theorem test_checksum_wraps : see (exec .checksum { withIn [0xFF#8, 0x01#8] 2#8 with csum := 0xAA#8 })
    (fun t => (t.csum, outcome t)) = some (0x00#8, 0x02#8, 0x00#8, 0x00#8) := by decide
theorem test_checksum_bad_length : see (exec .checksum { withIn [] 65#8 with csum := 0xAA#8 })
    (fun t => (t.csum, outcome t)) = some (0xAA#8, 0x02#8, 0x03#8, 0x00#8) := by decide
/-- E1 and E13. -/
theorem test_encode_e1 : see (exec .encode (withIn [0x02#8] 1#8)) (fun t => (t.txLen, t.txBuf.toList.take 7)) =
    some (0x07#8, [0x00#8, 0xFF#8, 0x02#8, 0xFE#8, 0xD4#8, 0x02#8, 0x2A#8]) := by decide
theorem test_encode_bad_length : see (exec .encode (withIn [] 60#8)) (fun t => (t.txLen, outcome t)) =
    some (0x00#8, 0x02#8, 0x03#8, 0x00#8) := by decide
/-- D1 and D16. -/
theorem test_decode_d1 : see (exec .decode (withRx [0x00#8, 0xFF#8, 0x03#8, 0xFD#8, 0xD5#8, 0x4A#8, 0x01#8]))
    (fun t => (t.peek 0x00B#9, t.peek 0x00C#9, t.peek 0x00E#9, t.payload.toList.take 5)) =
    some (0x0D#8, 0x07#8, 0x05#8, [0x03#8, 0xFD#8, 0xD5#8, 0x4A#8, 0x01#8]) := by decide
theorem test_decode_d16 : see (exec .decode (withRx [0x01#8, 0x00#8, 0x00#8, 0xFF#8, 0x03#8]))
    (fun t => (t.peek 0x00B#9, t.peek 0x00C#9, t.peek 0x00E#9)) = some (0x07#8, 0x07#8, 0x01#8) := by decide
/-- A1 and A10. -/
theorem test_ackmatch_a1 : see (exec .ackmatch (withAck [0x01#8, 0x00#8, 0x00#8, 0xFF#8, 0x00#8, 0xFF#8, 0x00#8] 7#8))
    (fun t => (t.peek 0x009#9, outcome t)) = some (0x03#8, 0x02#8, 0x00#8, 0x00#8) := by decide
theorem test_ackmatch_a10 : see (exec .ackmatch (withAck [0x00#8, 0x00#8, 0x00#8, 0xFF#8, 0x00#8, 0xFF#8, 0x00#8] 7#8))
    (fun t => (t.peek 0x009#9, outcome t)) = some (0x00#8, 0x02#8, 0x02#8, 0x00#8) := by decide
/-- R82's example, and X2. -/
theorem test_exchange_accept : see (exec .exchange (withIn [0x02#8] 1#8))
    (fun t => (t.peek 0x001#9, t.peek 0x003#9, t.req, t.txLen)) = some (0x01#8, 0x01#8, .wake, 0x07#8) := by decide
theorem test_exchange_bad_length : see (exec .exchange (withIn [] 60#8)) (fun t => (outcome t, t.req)) =
    some ((0x02#8, 0x03#8, 0x00#8), .none) := by decide
/-- B15 and B9. -/
theorem test_badCmd : see (exec (.badCmd 0x07#8) base) (fun t => (t.cmd, outcome t)) =
    some (0x07#8, 0x02#8, 0x04#8, 0x00#8) := by decide
theorem test_busy_write_dropped : see (exec .checksum (flying .wake .wake [])) (fun t => (t.cmd, t.rej)) =
    some (0x00#8, true) := by decide

/-- The step in which a chip opcode's frame leaves: with END_TXN_EN = 0 PHASE becomes WAIT1 (R84). -/
def carried (nbits w : Nat) : Option (Byte × Bool) :=
  see (step (base.withFetchWord nbits w)) fun t => (t.peek 0x003#9, t.sampleDue)

theorem test_getFirmwareVersion : carried 8 0x02 = some (0x04#8, true) := by decide
theorem test_samConfiguration : carried 8 0x14 = some (0x04#8, true) := by decide
theorem test_rfConfiguration : carried 8 0x32 = some (0x04#8, true) := by decide
theorem test_inListPassiveTarget : carried 8 0x4A = some (0x04#8, true) := by decide
theorem test_inDataExchange : carried 8 0x40 = some (0x04#8, true) := by decide
theorem test_authenticateA : carried 8 0x60 = some (0x04#8, true) := by decide
theorem test_authenticateB : carried 8 0x61 = some (0x04#8, true) := by decide
theorem test_read16 : carried 8 0x30 = some (0x04#8, true) := by decide
theorem test_write16 : carried 8 0xA0 = some (0x04#8, true) := by decide
theorem test_increment : carried 8 0xC1 = some (0x04#8, true) := by decide
theorem test_decrement : carried 8 0xC0 = some (0x04#8, true) := by decide
theorem test_transfer : carried 8 0xB0 = some (0x04#8, true) := by decide
theorem test_wire_off_channel : see (exec (.getFirmwareVersion []) base) (·.phase) = none := by decide
/-- A bus word placed as the host's next operation runs: WR 0x005, 0x02. -/
theorem test_fetch_bus : see (step (base.withFetchWord 24 0x20502)) (·.inLen) = some 0x02#8 := by decide

/-- R87's examples with POLL_LIMIT = 3, P4's acknowledgement, R91's example, R92's example. -/
theorem test_sample_ready : see (step (flying .wait1 .none [.sample true])) (fun t => (t.phase, t.pollCount)) =
    some (.settle, 1#16) := by decide
theorem test_sample_timeout :
    see (step { flying .wait2 .none [.sample false] with pollCount := 2#16 }) (fun t => (outcome t, t.pollCount)) =
    some ((0x02#8, 0x01#8, 0x07#8), 3#16) := by decide
theorem test_tick_settle : see (step { flying .settle .none [.tick] with settleTicks := 1#8 }) (fun t => (t.phase, t.req)) =
    some (.readAck, .recv7) := by decide
theorem test_recv_invalid_ack :
    see (step (flying .readAck .recv7 [.doneRecv [0x00#8, 0x00#8, 0xFF#8, 0xFF#8, 0x00#8, 0x00#8, 0x00#8]]))
      (fun t => (outcome t, t.peek 0x008#9, t.peek 0x009#9)) =
    some ((0x02#8, 0x02#8, 0x06#8), 0x07#8, 0x00#8) := by decide
theorem test_recv_response :
    see (step (flying .readResp .recv64 [.doneRecv [0x01#8, 0x00#8, 0x00#8, 0xFF#8, 0x03#8, 0xFD#8, 0xD5#8, 0x4B#8,
      0x01#8, 0xDF#8, 0x00#8]])) (fun t => (outcome t, t.peek 0x00B#9, t.peek 0x00C#9, t.peek 0x00E#9)) =
    some ((0x02#8, 0x00#8, 0x08#8), 0x1B#8, 0x07#8, 0x07#8) := by decide
theorem test_release2 : see (step (flying .release2 .release [.doneRelease])) outcome =
    some (0x02#8, 0x00#8, 0x09#8) := by decide

/-- Scripts (R105, R106): SETLIMIT is two writes, low byte first, and a sample at the ready level follows a line. -/
theorem test_script_setlimit : (Line.setLimit 0x0103#16).inputs = [.bus 0x21003#18, .bus 0x21101#18] := by decide
theorem test_script_ready : script [.tick, .ready true, .tick] =
    [.tick, .sample false, .sample true, .tick, .sample true] := by decide
/-- P6's FILL is a write a byte, and a FILL past 0x1FF goes on at 0x000 (log entry 22). -/
theorem test_script_fill : (Line.fill 0x0A8#9 [0x00#8, 0xFF#8]).inputs = [.bus 0x2A800#18, .bus 0x2A9FF#18] ∧
    (Line.fill 0x1FF#9 [0x00#8, 0x05#8]).inputs = [.bus 0x3FF00#18, .bus 0x20005#18] := by decide

/-! ### Witnesses: a state and operands that meet the hypotheses of each obligation -/

theorem witness_RdReturnsRegisterOrAny :
    ((flying .wake .wake []).busy = true ∧ volatileAddr 0x008 = true ∧ volatileAddr 0x13D = true) ∧
      base.busy = false ∧ volatileAddr 0x007 = false ∧ volatileAddr 0x13E = false := by decide

theorem witness_ReservedReadsZeroIgnoresWrites :
    reservedAddr 0x00F = true ∧ reservedAddr 0x016 = true ∧ reservedAddr 0x0A1 = true ∧ reservedAddr 0x0AF = true ∧
      reservedAddr 0x0F0 = true ∧ reservedAddr 0x13E = true ∧ reservedAddr 0x1FF = true := by decide

theorem witness_WrStoresOneRegister :
    base.busy = false ∧ (0x008#9 : Addr) ≠ 0x000#9 ∧ (0x00A#9 : Addr) ≠ 0x000#9 ∧ (0x013#9 : Addr) ≠ 0x000#9 ∧
      writableAddr 0x05F = true ∧ writableAddr 0x060 = false ∧ writableAddr 0x0EF = true := by decide

theorem witness_WrWhileBusySetsRejOnly :
    (flying .wake .wake []).busy = true ∧ writableAddr 0x000 = true ∧ writableAddr 0x0EF = true ∧
      writableAddr 0x0F0 = false := by decide

theorem witness_HostCannotDisturbExchange :
    (flying .wake .wake [.bus 0x20509#18]).inputs = .bus 0x20509#18 :: [] ∧
      (flying .wake .wake [.bus 0x20509#18]).busy = true ∧ decode (.busWord 0x20509#18) = .ok (.wr 0x005#9 0x09#8) :=
  ⟨rfl, rfl, rfl⟩

theorem witness_OnlyReadWithDataIsIllegal :
    { base with inputs := [.bus 0x1FF01#18] }.inputs = .bus 0x1FF01#18 :: [] ∧ (0x1FF01#18).toNat < 0x20000 ∧
      (0x1FF01#18).toNat % 256 ≠ 0 ∧ 0x20000 ≤ (0x20000#18).toNat ∧ (0x1FF00#18).toNat % 256 = 0 := by decide

theorem witness_ChecksumLaw :
    byteSum [0xFF#8, 0x01#8] % 256 = byteSum [] % 256 ∧ [0x01#8, 0x02#8].Perm [0x02#8, 0x01#8] := by decide

theorem witness_EncodeFrameBytes :
    (1 ≤ [0x02#8].length ∧ [0x02#8].length ≤ 59) ∧
      1 ≤ (List.replicate 59 0x00#8).length ∧ (List.replicate 59 0x00#8).length ≤ 59 := by decide

theorem witness_EncodedFrameSumsToZero :
    (1 ≤ [0x2C#8].length ∧ [0x2C#8].length ≤ 59) ∧
      1 ≤ (List.replicate 59 0xFF#8).length ∧ (List.replicate 59 0xFF#8).length ≤ 59 := by decide

/-- Neither layout (D7 and D4), the length byte missing (D5, D6) and received (D15, D16), at the ends of c. -/
theorem witness_DecodeFrameFields :
    (¬(2 ≤ 1 ∧ (withRx [0x00#8]).rxBuf[0] = 0x00#8 ∧ (withRx [0x00#8]).rxBuf[1] = 0xFF#8) ∧
      ¬(2 ≤ 64 ∧ base.rxBuf[0] = 0x01#8 ∧ base.rxBuf[1] = 0x00#8)) ∧
    (2 ≤ 2 ∧ (withRx [0x00#8, 0xFF#8]).rxBuf[0] = 0x00#8 ∧ (withRx [0x00#8, 0xFF#8]).rxBuf[1] = 0xFF#8 ∧
      2 ≤ 2 ∧ 2 < 3) ∧
    (2 ≤ 4 ∧ (withRx [0x01#8]).rxBuf[0] = 0x01#8 ∧ (withRx [0x01#8]).rxBuf[1] = 0x00#8 ∧ 4 ≤ 4 ∧ 4 < 64) := by decide

theorem witness_DecodeReadsOnlyReceivedBytes :
    (withRx [0x00#8, 0xFF#8]).rxBuf.toList.take 1 = base.rxBuf.toList.take 1 ∧
      (withRx [0x00#8, 0xFF#8]).rxBuf ≠ base.rxBuf := by decide

theorem witness_AckMatchFields :
    (withAck [0x01#8] 6#8).ackBuf[0] ≠ 0x00#8 ∧ 6 < 7 ∧ 7 ≤ 7 ∧ base.ackBuf[0] = 0x00#8 ∧ 5 < 6 ∧ 6 ≤ 6 := by decide

theorem witness_AckMatchSingleByteChange :
    (0x00#8 : Byte) ≠ (#v[0x01#8, 0x00#8, 0x00#8, 0xFF#8, 0x00#8, 0xFF#8, 0x00#8] : Vector Byte 7)[0] ∧
      (0x01#8 : Byte) ≠ (#v[0x00#8, 0x00#8, 0xFF#8, 0x00#8, 0xFF#8, 0x00#8, 0x99#8] : Vector Byte 7)[0] ∧
      (withAck [0x02#8] 7#8).ackBuf[0] ≠ 0x00#8 ∧ (withAck [0x02#8] 7#8).ackBuf[0] ≠ 0x01#8 := by decide

/-- CHECKSUM at the ends of its length range, and while BUSY. -/
theorem witness_ChecksumCommand :
    (withIn [] 0#8).busy = false ∧ (withIn [] 0#8).phase = .idle ∧ (withIn [] 0#8).inLen.toNat ≤ 64 ∧
      (withIn [] 64#8).inLen.toNat ≤ 64 ∧ 64 < (withIn [] 65#8).inLen.toNat ∧ (flying .wake .wake []).busy = true := by
  decide

/-- ENCODE at the ends of its length range, and while BUSY. -/
theorem witness_EncodeCommand :
    (withIn [] 0#8).busy = false ∧ (withIn [] 0#8).phase = .idle ∧ ((withIn [] 0#8).peek 0x005#9).toNat = 0 ∧
      ((withIn [0x02#8] 1#8).peek 0x005#9).toNat = 1 ∧ ((withIn [] 59#8).peek 0x005#9).toNat = 59 ∧
      ((withIn [] 60#8).peek 0x005#9).toNat = 60 ∧ (flying .wake .wake []).busy = true := by decide

/-- EXCHANGE at the ends of its length range, and while BUSY. -/
theorem witness_ExchangeCommand :
    (withIn [] 0#8).busy = false ∧ (withIn [] 59#8).phase = .idle ∧ ((withIn [] 0#8).peek 0x005#9).toNat = 0 ∧
      ((withIn [0x02#8] 1#8).peek 0x005#9).toNat = 1 ∧ ((withIn [] 59#8).peek 0x005#9).toNat = 59 ∧
      ((withIn [] 60#8).peek 0x005#9).toNat = 60 ∧ (flying .send .none []).busy = true := by decide

theorem witness_DecodeCommand :
    base.busy = false ∧ base.phase = .idle ∧ (withRx (List.replicate 64 0#8)).rxCount.toNat = 64 ∧
      decodeFrame base.rxBuf base.rxCount.toNat =
        { flags := .clear, len9 := 0#9, avail := 0#8, payload := [] } := by decide

theorem witness_AckmatchCommand :
    base.busy = false ∧ base.phase = .idle ∧ ackMatch base.ackBuf base.ackCount.toNat = ⟨false, false, true⟩ := by decide

theorem witness_BadCmdCommand :
    ((0x00#8 : Byte) = 0x00#8 ∨ 0x06 ≤ (0x00#8).toNat) ∧ ((0x06#8 : Byte) = 0x00#8 ∨ 0x06 ≤ (0x06#8).toNat) ∧
      ((0xFF#8 : Byte) = 0x00#8 ∨ 0x06 ≤ (0xFF#8).toNat) ∧ base.busy = false ∧ base.phase = .idle := by decide

theorem witness_WakeCompletes :
    (flying .wake .wake [.doneWake]).inputs = .doneWake :: [] ∧ (flying .wake .wake [.doneWake]).phase = .wake ∧
      (flying .wake .wake [.doneWake]).req = .wake ∧ (flying .wake .wake [.doneWake]).txLen.toNat ≤ 65 := by decide

theorem witness_SendCompletes :
    (flying .send (.send (encodeFrame [0x02#8])) [.doneSend]).inputs = .doneSend :: [] ∧
      (flying .send (.send (encodeFrame [0x02#8])) [.doneSend]).phase = .send ∧
      (flying .send (.send (encodeFrame [0x02#8])) [.doneSend]).req = .send (encodeFrame [0x02#8]) ∧
      (flying .send (.send (encodeFrame [0x02#8])) [.doneSend]).peek 0x013#9 = 0x00#8 ∧
      { flying .send (.send (encodeFrame [0x02#8])) [.doneSend] with endTxnEn := true }.peek 0x013#9 = 0x01#8 := by
  decide

theorem witness_ReleaseCompletes :
    (flying .release1 .release [.doneRelease]).inputs = .doneRelease :: [] ∧
      (flying .release1 .release [.doneRelease]).req = .release ∧
      (flying .release1 .release [.doneRelease]).phase = .release1 ∧
      (flying .release2 .release [.doneRelease]).phase = .release2 := by decide

/-- The first sample, the last but one and the last of a limit of 3, and the limit stored as 0. -/
theorem witness_SampleStep :
    (flying .wait1 .none [.sample true]).inputs = .sample true :: [] ∧
      (flying .wait1 .none [.sample true]).sampleDue = true ∧
      (flying .wait1 .none [.sample true]).pollCount.toNat + 1 < max (flying .wait1 .none []).pollLimit.toNat 1 ∧
      (flying .wait1 .none []).settleTicks ≠ 0#8 ∧ { flying .wait1 .none [] with settleTicks := 0#8 }.settleTicks = 0#8 ∧
      max (flying .wait2 .none []).pollLimit.toNat 1 ≤ { flying .wait2 .none [] with pollCount := 2#16 }.pollCount.toNat + 1 ∧
      { flying .wait2 .none [] with pollCount := 2#16 }.pollCount.toNat < max (flying .wait2 .none []).pollLimit.toNat 1 ∧
      (flying .wait2 .none []).pollCount.toNat < max { base with pollLimit := 0#16 }.pollLimit.toNat 1 := by decide

theorem witness_TickInWait :
    (flying .wait1 .none [.tick]).inputs = .tick :: [] ∧ (flying .wait1 .none [.tick]).phase = .wait1 ∧
      (flying .wait1 .none [.tick]).sampleDue = true ∧
      { flying .wait2 .none [.tick] with sampleDue := false }.sampleDue = false := by decide

/-- SETTLE_TICKS = 1 ends at the first tick, SETTLE_TICKS = 2 does not. -/
theorem witness_TickInSettle :
    (flying .settle .none [.tick]).inputs = .tick :: [] ∧ (flying .settle .none [.tick]).phase = .settle ∧
      (flying .settle .none []).settleCnt.toNat < (flying .settle .none []).settleTicks.toNat ∧
      (flying .settle .none []).settleTicks.toNat ≤ (flying .settle .none []).settleCnt.toNat + 1 ∧
      (flying .settle .none []).settleCnt.toNat + 1 <
        { flying .settle .none [] with settleTicks := 2#8 }.settleTicks.toNat := by decide

theorem witness_OtherEventsChangeNothing :
    { base with inputs := [.tick] }.inputs = .tick :: [] ∧ base.phase ≠ .wait1 ∧ base.phase ≠ .wait2 ∧
      base.phase ≠ .settle ∧ (flying .wait1 .none [.tick]).sampleDue = true ∧ base.sampleDue = false ∧
      (flying .settle .none [.sample true]).inputs = .sample true :: [] := by decide

theorem witness_RecvAckCompletes :
    (flying .readAck .recv7 [.doneRecv ackShort]).inputs = .doneRecv ackShort :: [] ∧
      (flying .readAck .recv7 []).phase = .readAck ∧ (flying .readAck .recv7 []).req = .recv7 ∧ ackShort.length ≤ 7 ∧
      ackMatch (overlay (flying .readAck .recv7 []).ackBuf ackShort) ackShort.length = ⟨true, false, false⟩ ∧
      ackMatch (overlay (flying .readAck .recv7 []).ackBuf []) 0 = ⟨false, false, true⟩ := by decide

theorem witness_RecvRespCompletes :
    (flying .readResp .recv64 [.doneRecv [0x00#8, 0xFF#8]]).inputs = .doneRecv [0x00#8, 0xFF#8] :: [] ∧
      (flying .readResp .recv64 []).phase = .readResp ∧ (flying .readResp .recv64 []).req = .recv64 ∧
      (List.replicate 64 0x00#8).length ≤ 64 ∧ (flying .readResp .recv64 []).endTxnEn = false ∧
      { flying .readResp .recv64 [] with endTxnEn := true }.endTxnEn = true ∧
      decodeFrame (overlay (flying .readResp .recv64 []).rxBuf [0x00#8, 0xFF#8]) 2 =
        { flags := ⟨false, false, true, false, false⟩, len9 := 0#9, avail := 0#8, payload := [] } := by decide

theorem witness_MismatchedCompletionRefused :
    { base with inputs := [.doneWake] }.inputs = .doneWake :: [] ∧ base.req ≠ .wake ∧ base.req ≠ .release ∧
      base.req ≠ .recv7 ∧ base.req ≠ .recv64 ∧ 7 < (List.replicate 8 0x00#8).length ∧
      64 < (List.replicate 65 0x00#8).length ∧ (flying .readAck .recv7 []).req = .recv7 ∧
      (flying .readResp .recv64 []).req = .recv64 := by decide

theorem witness_MismatchedSend : ∀ f, base.req ≠ .send f := fun _ h => by cases h

theorem witness_ChipOpcodesAreCarriedAlike :
    (flying .send (.send (encodeFrame [0x40#8, 0x01#8, 0x30#8, 0x04#8])) []).phase = .send ∧
      (flying .send (.send (encodeFrame [0x40#8, 0x01#8, 0x30#8, 0x04#8])) []).req =
        .send (encodeFrame (0x40#8 :: 0x01#8 :: 0x30#8 :: [0x04#8])) ∧
      base.req ≠ .send (encodeFrame [0x02#8]) := by decide

theorem witness_WaitIdleReadsStatus :
    (flying .wake .wake [.waitIdle]).inputs = .waitIdle :: [] ∧ (flying .wake .wake [.waitIdle]).busy = true ∧
      { base with inputs := [.waitIdle] }.busy = false := by decide

theorem witness_StepRunsBusWord :
    { base with inputs := [.bus 0x20005#18] }.inputs = .bus 0x20005#18 :: [] ∧
      decode (.busWord 0x20005#18) = .ok .exchange := ⟨rfl, rfl⟩

theorem witness_StepRunsCarriedInstruction :
    (placeFrame [0x02#8] base).inputs = .doneSend :: [] ∧ (placeFrame [0x02#8] base).req = .send (encodeFrame [0x02#8]) ∧
      decode (.payload [0x02#8]) = .ok (.getFirmwareVersion []) := ⟨rfl, rfl, rfl⟩

theorem witness_DecodeOfEncode : (Instr.write16 0x01#8 (write16Args 0x04#8 (Vector.replicate 16 0xFF#8))).wf = true := by
  decide

theorem witness_EncodeOfDecode : decode (.payload [0x40#8, 0x01#8, 0xB0#8]) = .ok (.transfer 0x01#8 []) := by rfl

theorem witness_ResetEvent : (flying .wait1 .none [.reset]).inputs = .reset :: [] := by decide

theorem witness_ResetValues : base = State.resetWith Params.vectors 0 fun _ => 0x00#8 := rfl

/-- A state in flight: the wait whose next sample is its last. -/
def lastSample : State := { flying .wait1 .none [.sample false] with pollCount := 2#16 }

/-- What its step leaves. -/
def timedOut : State := finish .timeout (countSample { lastSample with inputs := [] })

theorem lastSample_inv : lastSample.Inv where
  busy_phase := by decide
  busy_done := by decide
  busy_code := by decide
  req_phase := by decide
  due_phase := by decide
  wait_poll := by decide
  busy_poll := by decide
  settle_count := by decide
  idle_settle := by decide
  ack_count := by decide
  rx_count := by decide
  resp_avail := by decide
  resp_len := by decide
  resp_none := by decide
  tx_frame := .inr ⟨[0x02#8], by decide, by decide, by decide, by decide⟩
  busy_frame := by decide
  release_en := by decide

theorem lastSample_step : step lastSample = .next timedOut := by rfl

theorem witness_StepKeepsSoundness : lastSample.Inv ∧ step lastSample = .next timedOut :=
  ⟨lastSample_inv, lastSample_step⟩

theorem witness_ExchangeOutcomes :
    lastSample.Inv ∧ lastSample.busy = true ∧ step lastSample = .next timedOut ∧ timedOut.busy = false ∧
      lastSample.inputs.head? ≠ some .reset :=
  ⟨lastSample_inv, by decide, lastSample_step, by decide, by decide⟩

theorem witness_PhasesFollowTheTable :
    lastSample.Inv ∧ lastSample.busy = true ∧ step lastSample = .next timedOut :=
  ⟨lastSample_inv, by decide, lastSample_step⟩

/-- A step that changes CSUM, and one that is no WR. -/
theorem witness_WritersOfHostRegisters :
    (∃ t, step { withIn [0x01#8] 1#8 with inputs := [.bus 0x20001#18] } = .next t ∧ t.csum ≠ 0x00#8) ∧
      step lastSample = .next timedOut ∧ lastSample.inputs.head? ≠ some .reset ∧
      ∀ w, lastSample.inputs.head? ≠ some (.bus w) :=
  ⟨⟨_, rfl, by decide⟩, lastSample_step, by decide, fun _ h => by cases h⟩

/-- A limit of 3 in WAIT1, and a limit stored as 0. -/
theorem witness_WaitTimesOut :
    3 = max (flying .wait1 .none (failedWait 3)).pollLimit.toNat 1 ∧
      (flying .wait1 .none (failedWait 3)).phase = .wait1 ∧ (flying .wait1 .none (failedWait 3)).sampleDue = true ∧
      (flying .wait1 .none (failedWait 3)).pollCount = 0#16 ∧
      (flying .wait1 .none (failedWait 3)).inputs = failedWait 3 ++ [] ∧
      1 = max { base with pollLimit := 0#16 }.pollLimit.toNat 1 := by decide

/-- A wait of limit 3: the sample that leaves it at 1, the tick that leaves it, and the last sample. -/
theorem witness_WaitCountsItsSamples :
    lastSample.Inv ∧ lastSample.phase = .wait1 ∧ step lastSample = .next timedOut ∧
      lastSample.inputs = .sample false :: [] ∧ lastSample.sampleDue = true ∧ timedOut.code = .timeout ∧
      (∃ t, step { lastSample with inputs := [.tick] } = .next t ∧ t.pollCount = 2#16) ∧
      ∀ r l, { lastSample with inputs := [.tick] }.inputs ≠ .sample r :: l :=
  ⟨lastSample_inv, by decide, lastSample_step, by decide, by decide, by decide, ⟨_, rfl, by decide⟩,
    fun _ _ h => by cases h⟩

theorem base_inv : (withIn [0x02#8] 1#8).Inv where
  busy_phase := by decide
  busy_done := by decide
  busy_code := by decide
  req_phase := by decide
  due_phase := by decide
  wait_poll := by decide
  busy_poll := by decide
  settle_count := by decide
  idle_settle := by decide
  ack_count := by decide
  rx_count := by decide
  resp_avail := by decide
  resp_len := by decide
  resp_none := by decide
  tx_frame := .inl rfl
  busy_frame := by decide
  release_en := by decide

theorem witness_ExchangeTickBound :
    (withIn [0x02#8] 1#8).Inv ∧ (withIn [0x02#8] 1#8).busy = false ∧
      ∃ t, exec .exchange (withIn [0x02#8] 1#8) = .next t ∧ t.busy = true :=
  ⟨base_inv, by decide, _, rfl, by decide⟩

end Sys2Proof.Tests
end

section
/-! The host's bus words as steps (R12, R59). -/

namespace Sys2Proof.Machine

theorem busStep_of_decode_ok {w : BusWord} {i : Instr} (hdec : decode (.busWord w) = .ok i) (s : State) :
    busStep w s = exec i s := by
  simp only [busStep, hdec]

/-- Settles O35: the turn at the head is taken (`step_cons`), and a bus word's turn is its decoded instruction. -/
theorem stepRunsBusWord : Obligations.StepRunsBusWord := by
  intro s w rest i hinputs hdec
  calc step s
      _ = inputStep (.bus w) { s with inputs := rest } := step_cons hinputs
      _ = busStep w { s with inputs := rest } := rfl
      _ = exec i { s with inputs := rest } := busStep_of_decode_ok hdec _

end Sys2Proof.Machine
end

section
/-! What each agent's turn can do, said once: the effects of a bus word (R100, R101) and of the sequencer, the time
base and the channel (R83 to R92). Claims about every step go through these tables. -/

namespace Sys2Proof.Machine

/-! ### The host's bus words -/

/-- The instruction of a bus word is a RD, a WR to another address than CMD, or a command (R59, R60). -/
theorem decode_busWord_cases {w : BusWord} {i : Instr} (h : decode (.busWord w) = .ok i) :
    (∃ a, i = .rd a) ∨ (∃ a v, a ≠ 0#9 ∧ i = .wr a v) ∨ ∃ v, i = decodeCommand v := by
  simp only [decode, decodeBusWord] at h
  split_ifs at h with hw ha hd <;> cases h
  · exact .inr (.inr ⟨_, rfl⟩)
  · exact .inr (.inl ⟨_, _, ha, rfl⟩)
  · exact .inl ⟨_, rfl⟩

/-- A write of any byte to CMD runs the command of that byte (R60, R101). -/
theorem exec_decodeCommand (v : Byte) (s : State) :
    exec (decodeCommand v) s = hostCommand v (runCommand v) s := by
  unfold decodeCommand runCommand
  split_ifs <;> subst_vars <;> rfl

/-- WR at an address other than CMD: stored, rejected while BUSY, or ignored (R18, R101). -/
theorem execWr_of_ne_zero {a : Addr} (ha : a ≠ 0#9) (v : Byte) (s : State) :
    execWr a v s = .next (if writableAddr a.toNat then
      if s.busy then rejectWrite s else writeReg (regAt a) v s else s) := by
  have hcmd : regAt a ≠ .cmd := mt (regAt_eq_cmd a).mp ha
  simp only [execWr, hcmd, regAt_writable, if_false]
  split_ifs <;> rfl

/-- What the host's bus word w can do to s. -/
inductive BusEffect (w : BusWord) (s : State) : State → Prop
  /-- A RD gives the byte of a register (R100). -/
  | read (v : Byte) : BusEffect w s (giveHost v s)
  /-- A RD of a V register while BUSY = 1 gives a free byte (R17). -/
  | readAny : BusEffect w s (giveHostAny s)
  /-- A WR to an address that is not writable (R18). -/
  | ignored : BusEffect w s s
  /-- A WR or a command while BUSY = 1 (R18). -/
  | rejected : BusEffect w s (rejectWrite s)
  /-- A WR while BUSY = 0 (R101). -/
  | stored (a : Addr) (v : Byte) (hdec : decode (.busWord w) = .ok (.wr a v)) (hidle : s.busy = false) :
      BusEffect w s (writeReg (regAt a) v s)
  /-- A command while BUSY = 0 (R101). -/
  | command (v : Byte) (hdec : decode (.busWord w) = .ok (decodeCommand v)) (hidle : s.busy = false) :
      BusEffect w s (runCommand v (beginCommand v s))

theorem busStep_effect {w : BusWord} {s t : State} (h : busStep w s = .next t) : BusEffect w s t := by
  obtain ⟨i, hdec, hexec⟩ := busStep_next h
  obtain ⟨a, rfl⟩ | ⟨a, v, ha, rfl⟩ | ⟨v, rfl⟩ := decode_busWord_cases hdec
  · obtain rfl | rfl := execRd_next hexec
    · exact .readAny
    · exact .read _
  · have hwr := (execWr_of_ne_zero ha v s).symm.trans hexec
    cases hwr
    split_ifs with hwritable hbusy
    · exact .rejected
    · exact .stored a v hdec (Bool.eq_false_iff.mpr hbusy)
    · exact .ignored
  · rw [exec_decodeCommand] at hexec
    obtain ⟨_, rfl⟩ | ⟨hidle, rfl⟩ := hostCommand_next hexec
    · exact .rejected
    · exact .command v hdec hidle

/-! ### The sequencer, the time base and the channel -/

/-- READ_RESP's store and its decode (R91). -/
def storeResp (d : List Byte) (s : State) : State :=
  writeResp (decodeFrame (storeRx d s).rxBuf (storeRx d s).rxCount.toNat) (storeRx d s)

/-- The sample is counted and no longer due (R87). -/
def takeSample (s : State) : State := setSampleDue false (countSample s)

/-- What a sample, a tick or a completion can do to s. -/
inductive ChannelEffect (s : State) : State → Prop
  /-- A sample or a tick that is not enabled (R94). -/
  | nothing : ChannelEffect s s
  /-- Wake completes (R83). -/
  | woken (hp : s.phase = .wake) : ChannelEffect s (enterIssue .send (.send s.txFrame) s)
  /-- Send completes with END_TXN_EN = 1 (R84). -/
  | sentRelease (hp : s.phase = .send) (hen : s.endTxnEn = true) :
      ChannelEffect s (enterIssue .release1 .release s)
  /-- Send completes with END_TXN_EN = 0, or RELEASE1's Release completes (R84, R85). -/
  | startWait (hp : s.phase = .send ∨ s.phase = .release1) : ChannelEffect s (enterWait .wait1 s)
  /-- RELEASE2's Release completes (R92). -/
  | released (hp : s.phase = .release2) : ChannelEffect s (finish .ok s)
  /-- WAIT1 sees ready and SETTLE has ticks to count (R87, R89). -/
  | readySettle (hp : s.phase = .wait1) (hdue : s.sampleDue = true) (ht : s.settleTicks ≠ 0#8) :
      ChannelEffect s (startSettle (takeSample s))
  /-- WAIT1 sees ready and SETTLE_TICKS = 0 (R87, R89). -/
  | readyNoSettle (hp : s.phase = .wait1) (hdue : s.sampleDue = true) (ht : s.settleTicks = 0#8) :
      ChannelEffect s (enterReadAck (startSettle (takeSample s)))
  /-- WAIT2 sees ready (R87). -/
  | readyResp (hp : s.phase = .wait2) (hdue : s.sampleDue = true) :
      ChannelEffect s (enterIssue .readResp .recv64 (takeSample s))
  /-- The last sample of a wait draws 0 (R87). -/
  | timedOut (hp : s.phase.isWait = true) (hdue : s.sampleDue = true)
      (hlim : s.waitLimit ≤ (countSample s).pollCount.toNat) : ChannelEffect s (finish .timeout (countSample s))
  /-- Another sample of a wait draws 0 (R87). -/
  | notReady (hp : s.phase.isWait = true) (hdue : s.sampleDue = true)
      (hlim : (countSample s).pollCount.toNat < s.waitLimit) : ChannelEffect s (takeSample s)
  /-- A tick in a wait makes a sample due (R88). -/
  | waitTick (hp : s.phase.isWait = true) : ChannelEffect s (setSampleDue true s)
  /-- The last tick of SETTLE (R89). -/
  | settled (hp : s.phase = .settle) : ChannelEffect s (enterReadAck (countSettle s))
  /-- Another tick of SETTLE (R89). -/
  | settleTick (hp : s.phase = .settle) (hlim : (countSettle s).settleCnt.toNat < s.settleTicks.toNat) :
      ChannelEffect s (countSettle s)
  /-- The acknowledgement matches (R90). -/
  | acked (d : List Byte) (hp : s.phase = .readAck) (hd : d.length ≤ 7)
      (hm : (matchAck (storeAck d s)).ackResult.matched = true) :
      ChannelEffect s (enterWait .wait2 (matchAck (storeAck d s)))
  /-- The acknowledgement does not match (R90). -/
  | notAcked (d : List Byte) (hp : s.phase = .readAck) (hd : d.length ≤ 7)
      (hm : (matchAck (storeAck d s)).ackResult.matched = false) :
      ChannelEffect s (finish .invalidAck (matchAck (storeAck d s)))
  /-- The response arrives with END_TXN_EN = 1 (R91). -/
  | answeredRelease (d : List Byte) (hp : s.phase = .readResp) (hd : d.length ≤ 64) (hen : s.endTxnEn = true) :
      ChannelEffect s (enterIssue .release2 .release (storeResp d s))
  /-- The response arrives with END_TXN_EN = 0 (R91). -/
  | answered (d : List Byte) (hp : s.phase = .readResp) (hd : d.length ≤ 64) (hen : s.endTxnEn = false) :
      ChannelEffect s (finish .ok (storeResp d s))

theorem Phase.isWait_iff (p : Phase) : p.isWait = true ↔ p = .wait1 ∨ p = .wait2 := by cases p <;> decide

theorem sampleStep_effect (ready : Bool) (s : State) : ChannelEffect s (sampleStep ready s) := by
  unfold sampleStep
  split_ifs with henabled hready
  · obtain ⟨hp, hdue⟩ := Bool.and_eq_true_iff.mp henabled
    show ChannelEffect s (if s.phase = .wait1 then enterSettle (takeSample s)
      else enterIssue .readResp .recv64 (takeSample s))
    split_ifs with hwait1
    · obtain ⟨ht, heq⟩ | ⟨ht, heq⟩ := enterSettle_cases (takeSample s) <;> rw [heq]
      · exact .readyNoSettle hwait1 hdue ht
      · exact .readySettle hwait1 hdue ht
    · exact .readyResp (((Phase.isWait_iff _).mp hp).resolve_left hwait1) hdue
  · obtain ⟨hp, hdue⟩ := Bool.and_eq_true_iff.mp henabled
    unfold sampleNotReady
    dsimp only
    split_ifs with hlim
    · exact .timedOut hp hdue hlim
    · exact .notReady hp hdue (Nat.lt_of_not_le hlim)
  · exact .nothing

theorem tickStep_effect (s : State) : ChannelEffect s (tickStep s) := by
  unfold tickStep Machine.settleTick
  dsimp only
  split_ifs with hwait hsettle hlim
  · exact .waitTick hwait
  · exact .settled hsettle
  · exact .settleTick hsettle (Nat.lt_of_not_le hlim)
  · exact .nothing

theorem completeWake_effect {s t : State} (h : completeWake s = .next t) : ChannelEffect s t := by
  obtain ⟨hp, _, rfl⟩ := completeWake_next h
  exact .woken hp

theorem completeSend_effect {s t : State} (h : completeSend s = .next t) : ChannelEffect s t := by
  obtain ⟨hp, _, rfl⟩ := completeSend_next h
  unfold afterSend
  split_ifs with hen
  · exact .sentRelease hp hen
  · exact .startWait (.inl hp)

theorem completeRelease_effect {s t : State} (h : completeRelease s = .next t) : ChannelEffect s t := by
  obtain ⟨hp, rfl⟩ | ⟨hp, rfl⟩ := completeRelease_next h
  · exact .startWait (.inr hp)
  · exact .released hp

theorem completeRecv_effect {d : List Byte} {s t : State} (h : completeRecv d s = .next t) :
    ChannelEffect s t := by
  obtain ⟨hp, hd, rfl⟩ | ⟨hp, hd, rfl⟩ := completeRecv_next h
  · unfold afterRecvAck
    dsimp only
    split_ifs with hm
    · exact .acked d hp hd hm
    · exact .notAcked d hp hd (Bool.eq_false_iff.mpr hm)
  · show ChannelEffect s (if s.endTxnEn then enterIssue .release2 .release (storeResp d s)
      else finish .ok (storeResp d s))
    split_ifs with hen
    · exact .answeredRelease d hp hd hen
    · exact .answered d hp hd (Bool.eq_false_iff.mpr hen)

/-! ### Every agent -/

/-- What the turn e can do to s (R12). -/
inductive InputEffect (s : State) : Input → State → Prop
  /-- A bus word. -/
  | bus {w : BusWord} {t : State} (h : BusEffect w s t) : InputEffect s (.bus w) t
  /-- WAITIDLE reads BUSY = 0 and ends (R68). -/
  | idleSeen : InputEffect s .waitIdle (giveHost s.statusByte s)
  /-- WAITIDLE reads BUSY = 1 and stays (R68). -/
  | stillBusy : InputEffect s .waitIdle { giveHost s.statusByte s with inputs := .waitIdle :: s.inputs }
  /-- A sample, a tick or a completion. -/
  | channel {e : Input} {t : State} (h : ChannelEffect s t) : InputEffect s e t
  /-- Reset (R141). -/
  | reset : InputEffect s .reset (resetNow s)

theorem inputStep_effect {e : Input} {s t : State} (h : inputStep e s = .next t) : InputEffect s e t := by
  cases e with
  | bus w => exact .bus (busStep_effect h)
  | waitIdle =>
    obtain rfl | rfl := waitIdleStep_next h
    · exact .idleSeen
    · exact .stillBusy
  | sample ready => cases h; exact .channel (sampleStep_effect ready s)
  | tick => cases h; exact .channel (tickStep_effect s)
  | doneWake => exact .channel (completeWake_effect h)
  | doneSend => exact .channel (completeSend_effect (sendStep_eq s ▸ h))
  | doneRelease => exact .channel (completeRelease_effect h)
  | doneRecv d => exact .channel (completeRecv_effect h)
  | reset => cases h; exact .reset

end Sys2Proof.Machine
end

section
/-! Every step keeps the invariant (O43). The invariant has a part about the result registers and TX_BUF
(`ResultsOk`), which alone is enough once a command has finished, and a part about an exchange (`InFlight`), which
the phases share. -/

namespace Sys2Proof.Machine

/-- The counts, the decoded response and the stored frame, which `finish` leaves as they are. -/
structure State.ResultsOk (s : State) : Prop where
  ack_count : s.ackCount.toNat ≤ 7
  rx_count : s.rxCount.toNat ≤ 64
  resp_avail : s.respAvail.toNat ≤ 62
  resp_len : s.respFlags.success = true → 4 ≤ s.respLen.toNat ∧ s.respLen.toNat ≤ 259
  resp_none : s.respFlags.success = false → s.respLen = 0#9 ∧ s.respAvail = 0#8 ∧ s.respFlags.layoutB = false
  tx_frame : s.txLen = 0#8 ∨
    ∃ p, 1 ≤ p.length ∧ p.length ≤ Config.inMax ∧ s.txLen.toNat = p.length + 6 ∧ s.txFrame = encodeFrame p

/-- What holds in every phase of an exchange but IDLE. -/
structure State.InFlight (s : State) : Prop extends s.ResultsOk where
  busy : s.busy = true
  not_done : s.done = false
  code_ok : s.code = .ok
  poll_le : s.pollCount.toNat ≤ s.waitLimit
  frame : s.frameLengthOk = true ∧ s.txLen.toNat = s.inLen.toNat + 6 ∧ s.txFrame = encodeFrame s.inBytes

variable {s : State}

theorem State.Inv.resultsOk (h : s.Inv) : s.ResultsOk := { h with }

theorem State.Inv.busy_of_phase {p : Phase} (h : s.Inv) (hp : s.phase = p) (hne : p ≠ .idle) : s.busy = true :=
  h.busy_phase.mpr (hp ▸ hne)

theorem State.Inv.phase_of_idle (h : s.Inv) (hidle : s.busy = false) : s.phase = .idle := by
  by_contra hp
  exact absurd (h.busy_phase.mpr hp) (Bool.eq_false_iff.mp hidle)

/-- An exchange is in flight in every phase but IDLE. -/
theorem State.Inv.inFlight (h : s.Inv) {p : Phase} (hp : s.phase = p) (hne : p ≠ .idle) : s.InFlight :=
  have hb := h.busy_of_phase hp hne
  { h.resultsOk with
    busy := hb, not_done := h.busy_done hb, code_ok := h.busy_code hb, poll_le := h.busy_poll hb
    frame := h.busy_frame hb }

/-- No sample is due in a phase that does not wait. -/
theorem State.Inv.not_due (h : s.Inv) {p : Phase} (hp : s.phase = p) (hw : p.isWait = false) :
    s.sampleDue = false := by
  by_contra hdue
  exact Bool.eq_false_iff.mp hw (hp ▸ h.due_phase (Bool.eq_true_of_not_eq_false hdue))

/-- The two parts of the invariant of a busy state: what the phases share, and what each has of its own. -/
theorem State.InFlight.inv (h : s.InFlight) (hp : s.phase ≠ .idle) (hreq : s.req = s.expectedReq)
    (hdue : s.sampleDue = true → s.phase.isWait = true)
    (hpoll : s.phase.isWait = true → s.pollCount.toNat < s.waitLimit)
    (hsettle : s.phase = .settle → s.settleCnt.toNat < s.settleTicks.toNat)
    (hrel : s.phase = .release1 ∨ s.phase = .release2 → s.endTxnEn = true) : s.Inv :=
  { h.toResultsOk with
    busy_phase := iff_of_true h.busy hp
    busy_done := fun _ => h.not_done
    busy_code := fun _ => h.code_ok
    req_phase := hreq
    due_phase := hdue
    wait_poll := hpoll
    busy_poll := fun _ => h.poll_le
    settle_count := hsettle
    idle_settle := fun hidle => absurd hidle hp
    busy_frame := fun _ => h.frame
    release_en := hrel }

/-- The whole invariant of an idle state. -/
theorem State.ResultsOk.idle_inv (h : s.ResultsOk) (hbusy : s.busy = false) (hp : s.phase = .idle)
    (hreq : s.req = .none) (hdue : s.sampleDue = false) (hcnt : s.settleCnt = 0#8) : s.Inv := by
  have hb : s.busy ≠ true := Bool.eq_false_iff.mp hbusy
  exact { h with
    busy_phase := by simp [hbusy, hp]
    busy_done := (absurd · hb)
    busy_code := (absurd · hb)
    req_phase := by rw [hreq, State.expectedReq, hp]
    due_phase := by simp [hdue]
    wait_poll := by simp [hp, Phase.isWait]
    busy_poll := (absurd · hb)
    settle_count := by simp [hp]
    idle_settle := fun _ => hcnt
    busy_frame := (absurd · hb)
    release_en := by simp [hp] }

/-- A finished command leaves a sound state whatever it was (R93). -/
theorem State.ResultsOk.finish_inv (h : s.ResultsOk) (c : Completion) : (finish c s).Inv :=
  State.ResultsOk.idle_inv { h with } rfl rfl rfl rfl rfl

theorem resetWith_resultsOk (p : Params) (n : Nat) (draw : Nat → Byte) : (State.resetWith p n draw).ResultsOk where
  ack_count := by simp
  rx_count := by simp
  resp_avail := by simp
  resp_len := nofun
  resp_none := fun _ => ⟨rfl, rfl, rfl⟩
  tx_frame := .inl rfl

/-- Reset leaves a sound state whatever it was (R141). -/
theorem resetNow_inv (s : State) : (resetNow s).Inv :=
  State.ResultsOk.idle_inv { resetWith_resultsOk s.params (s.epoch + 1) (Config.resetByte (s.epoch + 1)) with }
    rfl rfl rfl rfl rfl

/-! ### What each store keeps -/

/-- ENCODE's store is a frame (R57, R76). -/
theorem storeFrame_frame (hlen : s.frameLengthOk = true) :
    1 ≤ s.inBytes.length ∧ s.inBytes.length ≤ Config.inMax ∧ s.inBytes.length = s.inLen.toNat ∧
      (storeFrame s).txLen.toNat = s.inLen.toNat + 6 ∧ (storeFrame s).txFrame = encodeFrame s.inBytes := by
  obtain ⟨hpos, hmax⟩ : 1 ≤ s.inLen.toNat ∧ s.inLen.toNat ≤ Config.inMax := by
    simpa [State.frameLengthOk] using hlen
  have h59 : s.inLen.toNat ≤ 59 := hmax
  have hbytes := inBytes_length (s := s) (by omega)
  have htx : (storeFrame s).txLen.toNat = s.inLen.toNat + 6 := by
    simp only [storeFrame_txLen, encodeFrame_length, hbytes, BitVec.toNat_ofNat]
    omega
  refine ⟨by omega, hbytes.trans_le hmax, hbytes, htx, ?_⟩
  rw [State.txFrame, htx, storeFrame_txBuf, storedFrame_take h59]

theorem State.ResultsOk.frameStored (h : s.ResultsOk) (hlen : s.frameLengthOk = true) :
    (storeFrame s).ResultsOk :=
  have ⟨hpos, hmax, hbytes, htx, hframe⟩ := storeFrame_frame hlen
  { h with tx_frame := .inr ⟨s.inBytes, hpos, hmax, hbytes ▸ htx, hframe⟩ }

/-- The decode of a legal count keeps the response registers in range (R30, R31, R32). -/
theorem State.ResultsOk.decoded (h : s.ResultsOk) :
    (writeResp (decodeFrame s.rxBuf s.rxCount.toNat) s).ResultsOk :=
  { h with
    resp_avail := decodeFrame_avail_le s.rxBuf h.rx_count
    resp_len := decodeFrame_len9
    resp_none := decodeFrame_failed }

theorem State.ResultsOk.cleared (h : s.ResultsOk) : (clearResults s).ResultsOk :=
  { h with
    ack_count := by simp
    rx_count := by simp
    resp_avail := by simp
    resp_len := nofun
    resp_none := fun _ => ⟨rfl, rfl, rfl⟩ }

theorem clampByte_toNat_le (v : Byte) (m : Nat) : (clampByte v m).toNat ≤ m := by
  have := Nat.mod_le (min v.toNat m) (2 ^ 8)
  simp only [clampByte, BitVec.toNat_ofNat]
  omega

/-- A host write keeps the result registers in range: the counts are clamped (R27, R29). -/
theorem State.ResultsOk.regWritten (h : s.ResultsOk) (r : Reg) (v : Byte) : (writeReg r v s).ResultsOk := by
  cases r with
  | ackCount => exact { h with ack_count := clampByte_toNat_le v 7 }
  | rxCount => exact { h with rx_count := clampByte_toNat_le v 64 }
  | _ => exact { h with }

@[simp] theorem writeReg_busy (r : Reg) (v : Byte) (s : State) : (writeReg r v s).busy = s.busy := by
  cases r <;> rfl
@[simp] theorem writeReg_phase (r : Reg) (v : Byte) (s : State) : (writeReg r v s).phase = s.phase := by
  cases r <;> rfl
@[simp] theorem writeReg_req (r : Reg) (v : Byte) (s : State) : (writeReg r v s).req = s.req := by
  cases r <;> rfl
@[simp] theorem writeReg_sampleDue (r : Reg) (v : Byte) (s : State) :
    (writeReg r v s).sampleDue = s.sampleDue := by
  cases r <;> rfl
@[simp] theorem writeReg_settleCnt (r : Reg) (v : Byte) (s : State) :
    (writeReg r v s).settleCnt = s.settleCnt := by
  cases r <;> rfl

/-- READ_ACK's store (R90). -/
theorem State.InFlight.ackStored (h : s.InFlight) {d : List Byte} (hd : d.length ≤ 7) :
    (matchAck (storeAck d s)).InFlight :=
  { h with ack_count := by simp [matchAck]; omega }

/-- READ_RESP's store (R91). -/
theorem State.InFlight.respStored (h : s.InFlight) {d : List Byte} (hd : d.length ≤ 64) :
    (storeResp d s).InFlight :=
  have hrx : (storeRx d s).ResultsOk := { h with rx_count := by simp; omega }
  { hrx.decoded, h with }

/-! ### The host's bus words -/

/-- A phase that issues a request (R11). -/
theorem State.InFlight.enterIssue_inv (h : s.InFlight) (hdue : s.sampleDue = false) {p : Phase} {r : Req}
    (hp : p ≠ .idle ∧ p.isWait = false ∧ p ≠ .settle) (hreq : r = (enterIssue p r s).expectedReq)
    (hrel : p = .release1 ∨ p = .release2 → s.endTxnEn = true) : (enterIssue p r s).Inv :=
  State.InFlight.inv { h with } hp.1 hreq (by simp [hdue]) (by simp [hp.2.1])
    (fun hs => absurd hs hp.2.2) hrel

/-- With its frame stored, clearing the results and setting BUSY puts an exchange in flight (R82). -/
theorem State.ResultsOk.accepted_inFlight (h : s.ResultsOk) (hdone : s.done = false) (hcode : s.code = .ok)
    (hframe : s.frameLengthOk = true ∧ s.txLen.toNat = s.inLen.toNat + 6 ∧ s.txFrame = encodeFrame s.inBytes) :
    (setBusy (clearResults s)).InFlight :=
  { h.cleared with
    busy := rfl, not_done := hdone, code_ok := hcode, poll_le := by simp, frame := hframe }

/-- EXCHANGE, accepted, starts a sound exchange (R82). -/
theorem runExchange_inv (h : s.ResultsOk) (hdone : s.done = false) (hcode : s.code = .ok)
    (hdue : s.sampleDue = false) : (runExchange s).Inv := by
  unfold runExchange
  split_ifs with hlen
  · have ⟨_, _, _, htx, hframe⟩ := storeFrame_frame hlen
    have hfl := (h.frameStored hlen).accepted_inFlight hdone hcode ⟨hlen, htx, hframe⟩
    exact hfl.enterIssue_inv hdue (by decide) rfl nofun
  · exact h.finish_inv _

/-- Every command, accepted, leaves a sound state (R101). -/
theorem runCommand_inv (h : s.ResultsOk) (hdone : s.done = false) (hcode : s.code = .ok)
    (hdue : s.sampleDue = false) (v : Byte) : (runCommand v s).Inv := by
  obtain e | e | e | e | e | e := runCommand_cases v s <;> rw [e]
  · unfold runChecksum
    split_ifs
    · exact State.ResultsOk.finish_inv (s := setCsum (checksum s.inBytes) s) { h with } _
    · exact h.finish_inv _
  · unfold runEncode
    split_ifs with hlen
    · exact (h.frameStored hlen).finish_inv _
    · exact h.finish_inv _
  · exact h.decoded.finish_inv _
  · exact State.ResultsOk.finish_inv (s := matchAck s) { h with } _
  · exact runExchange_inv h hdone hcode hdue
  · exact h.finish_inv _

theorem BusEffect.inv {w : BusWord} {t : State} (he : BusEffect w s t) (h : s.Inv) : t.Inv := by
  cases he with
  | read v => exact { h with }
  | readAny => exact { h with }
  | ignored => exact h
  | rejected => exact { h with }
  | stored a v _ hidle =>
    have hp := h.phase_of_idle hidle
    refine (h.resultsOk.regWritten (regAt a) v).idle_inv ?_ ?_ ?_ ?_ ?_
    · simpa using hidle
    · simpa using hp
    · simpa [State.expectedReq, hp] using h.req_phase
    · simpa using h.not_due hp rfl
    · simpa using h.idle_settle hp
  | command v _ hidle =>
    have hdue := h.not_due (h.phase_of_idle hidle) rfl
    exact runCommand_inv (s := beginCommand v s) { h with } rfl rfl hdue v

/-! ### The sequencer, the time base and the channel -/

theorem State.InFlight.enterReadAck_inv (h : s.InFlight) (hdue : s.sampleDue = false) : (enterReadAck s).Inv :=
  h.enterIssue_inv hdue (by decide) rfl nofun

theorem waitLimit_pos (s : State) : 0 < s.waitLimit := by simp [State.waitLimit]

/-- A wait starts with a sample due and none taken (R86). -/
theorem State.InFlight.enterWait_inv (h : s.InFlight) {p : Phase} (hp : p = .wait1 ∨ p = .wait2) :
    (enterWait p s).Inv := by
  have hfl : (enterWait p s).InFlight := { h with poll_le := by simp }
  have hpos := waitLimit_pos s
  obtain rfl | rfl := hp <;>
    exact hfl.inv nofun rfl (fun _ => rfl) (fun _ => by simpa using hpos) nofun nofun

/-- In a wait POLL_COUNT has room for the next sample (R36, R87). -/
theorem State.Inv.countSample_toNat (h : s.Inv) (hw : s.phase.isWait = true) :
    (countSample s).pollCount.toNat = s.pollCount.toNat + 1 := by
  have := h.wait_poll hw
  have := s.pollLimit.isLt
  simp only [State.waitLimit] at *
  simp only [countSample_pollCount, BitVec.toNat_add, BitVec.toNat_ofNat]
  omega

theorem State.Inv.inFlight_of_wait (h : s.Inv) (hw : s.phase.isWait = true) : s.InFlight :=
  h.inFlight rfl fun hidle => by simp [hidle, Phase.isWait] at hw

/-- A sample taken keeps POLL_COUNT within the limit (R87). -/
theorem State.Inv.takeSample_inFlight (h : s.Inv) (hw : s.phase.isWait = true) : (takeSample s).InFlight :=
  { h.inFlight_of_wait hw with
    poll_le := (h.countSample_toNat hw).trans_le (h.wait_poll hw) }

theorem ChannelEffect.inv {t : State} (he : ChannelEffect s t) (h : s.Inv) : t.Inv := by
  cases he with
  | nothing => exact h
  | woken hp => exact (h.inFlight hp nofun).enterIssue_inv (h.not_due hp rfl) (by decide) rfl nofun
  | sentRelease hp hen =>
    exact (h.inFlight hp nofun).enterIssue_inv (h.not_due hp rfl) (by decide) rfl fun _ => hen
  | startWait hp =>
    obtain hp | hp := hp <;> exact (h.inFlight hp nofun).enterWait_inv (.inl rfl)
  | released hp => exact h.resultsOk.finish_inv _
  | readySettle hp hdue ht =>
    have hfl := h.takeSample_inFlight (hp ▸ rfl)
    have hreq : s.req = .none := by rw [h.req_phase, State.expectedReq, hp]
    exact State.InFlight.inv { hfl with } nofun hreq nofun nofun
      (fun _ => Nat.pos_of_ne_zero fun h0 => ht (BitVec.eq_of_toNat_eq h0)) nofun
  | readyNoSettle hp hdue ht =>
    have hfl := h.takeSample_inFlight (hp ▸ rfl)
    exact State.InFlight.enterReadAck_inv (s := startSettle _) { hfl with } rfl
  | readyResp hp hdue =>
    exact (h.takeSample_inFlight (hp ▸ rfl)).enterIssue_inv rfl (by decide) rfl nofun
  | timedOut hp hdue hlim => exact State.ResultsOk.finish_inv (s := countSample s) { h with } _
  | notReady hp hdue hlim =>
    exact { h with due_phase := nofun, wait_poll := fun _ => hlim, busy_poll := fun _ => hlim.le }
  | waitTick hp => exact { h with due_phase := fun _ => hp }
  | settled hp =>
    have hfl := h.inFlight hp nofun
    exact State.InFlight.enterReadAck_inv (s := countSettle s) { hfl with } (h.not_due hp rfl)
  | settleTick hp hlim =>
    exact { h with
      settle_count := fun _ => hlim
      idle_settle := fun hidle => absurd (hp.symm.trans hidle) nofun }
  | acked d hp hd hm => exact ((h.inFlight hp nofun).ackStored hd).enterWait_inv (.inr rfl)
  | notAcked d hp hd hm => exact ((h.inFlight hp nofun).ackStored hd).finish_inv _
  | answeredRelease d hp hd hen =>
    exact ((h.inFlight hp nofun).respStored hd).enterIssue_inv (h.not_due hp rfl) (by decide) rfl fun _ => hen
  | answered d hp hd hen => exact ((h.inFlight hp nofun).respStored hd).finish_inv _

/-! ### Every step -/

theorem InputEffect.inv {e : Input} {t : State} (he : InputEffect s e t) (h : s.Inv) : t.Inv := by
  cases he with
  | bus hbus => exact hbus.inv h
  | idleSeen => exact { h with }
  | stillBusy => exact { h with }
  | channel hch => exact hch.inv h
  | reset => exact resetNow_inv s

/-- Settles O43: with no turn left nothing changes, and each effect a turn can have keeps the invariant
(`InputEffect.inv`). -/
theorem stepKeepsSoundness : Obligations.StepKeepsSoundness := by
  intro s t hinv hstep
  obtain ⟨_, rfl⟩ | ⟨e, rest, _, hinput⟩ := step_next hstep
  · exact hinv
  · have hrest : State.Inv { s with inputs := rest } := { hinv with }
    exact (inputStep_effect hinput).inv hrest

end Sys2Proof.Machine
end

section
/-! The host's view of the registers: RD (O1), the register map (O2), WR while BUSY = 1 (O5), and who writes the
host's own registers (O46). -/

namespace Sys2Proof.Machine

/-! ### RD and WR -/

theorem execRd_of_volatile {a : Addr} {s : State} (hbusy : s.busy = true)
    (hvol : volatileAddr a.toNat = true) : execRd a s = .next (giveHostAny s) := by
  simp [execRd, regAt_volatile, hbusy, hvol]

theorem execRd_of_plain {a : Addr} {s : State} (h : s.busy = false ∨ volatileAddr a.toNat = false) :
    execRd a s = .next (giveHost (s.peek a) s) := by
  obtain h | h := h <;> simp [execRd, regAt_volatile, h]

/-- Settles O1: BUSY and the V set decide which byte RD gives. -/
theorem rdReturnsRegisterOrAny : Obligations.RdReturnsRegisterOrAny :=
  fun _ _ => ⟨execRd_of_volatile, execRd_of_plain⟩

/-- A WR to a writable address while BUSY = 1, CMD included, is dropped (R18). -/
theorem execWr_of_busy {a : Addr} {s : State} (hbusy : s.busy = true) (hw : writableAddr a.toNat = true)
    (v : Byte) : execWr a v s = .next (rejectWrite s) := by
  by_cases ha : a = 0#9
  · subst ha
    exact hostCommand_of_busy hbusy
  · rw [execWr_of_ne_zero ha, if_pos hw, if_pos hbusy]

/-- A WR to an address that is not writable is ignored (R18). -/
theorem execWr_of_not_writable {a : Addr} (hw : writableAddr a.toNat = false) (v : Byte) (s : State) :
    execWr a v s = .next s := by
  have ha : a ≠ 0#9 := by rintro rfl; cases hw
  rw [execWr_of_ne_zero ha, if_neg (Bool.eq_false_iff.mp hw)]

/-- Settles O5: each of the writes is a plain WR or a `hostCommand`, and both are dropped while BUSY = 1. -/
theorem wrWhileBusySetsRejOnly : Obligations.WrWhileBusySetsRejOnly := by
  refine fun s => ⟨fun hbusy => ⟨fun a v hw => execWr_of_busy hbusy hw v, fun i hi => ?_,
    fun code => hostCommand_of_busy hbusy⟩, fun a v hw => execWr_of_not_writable hw v s⟩
  simp only [List.mem_cons, List.not_mem_nil, or_false] at hi
  obtain rfl | rfl | rfl | rfl | rfl := hi <;> exact hostCommand_of_busy hbusy

/-! ### The register map -/

/-- STATUS as a number: its flags weighted by their bit places (R20). -/
theorem statusByte_toNat (s : State) :
    s.statusByte.toNat = s.busy.toNat + 2 * s.done.toNat + 4 * s.rej.toNat := by
  unfold State.statusByte
  cases s.busy <;> cases s.done <;> cases s.rej <;> rfl

/-- The completion codes as R61 writes them. -/
theorem completion_codes : ∀ cb ∈ [(Completion.ok, 0x00#8), (.timeout, 0x01#8), (.invalidAck, 0x02#8),
    (.badLength, 0x03#8), (.badCmd, 0x04#8)], cb.1.toByte = cb.2 := by decide

/-- The phase codes as R22 writes them. -/
theorem phase_codes : ∀ pb ∈ [(Phase.idle, 0x00#8), (.wake, 0x01#8), (.send, 0x02#8), (.release1, 0x03#8),
    (.wait1, 0x04#8), (.settle, 0x05#8), (.readAck, 0x06#8), (.wait2, 0x07#8), (.readResp, 0x08#8),
    (.release2, 0x09#8)], pb.1.toByte = pb.2 := by decide

/-- A reserved address reads 0x00 (R46). -/
theorem peek_reserved (s : State) {a : Addr} (h : reservedAddr a.toNat = true) : s.peek a = 0x00#8 := by
  rw [State.peek, (regAt_reserved a).mpr h, State.regByte]

/-- Settles O2: register by register, the `peek` lemma of its address and the layout of its byte. -/
theorem registerMapAddresses : Obligations.RegisterMapAddresses := by
  intro s
  have whole {m : Nat} (buf : Vector Byte m) : buf.toList.take m = buf.toList := by simp
  refine ⟨rfl, statusByte_toNat s, fun cb hcb h => ?_, fun pb hpb => ⟨fun h => ?_, fun h => ?_⟩,
    rfl, rfl, rfl, rfl, ackResult_toNat _, rfl, respFlags_toNat _, halves9 _, rfl, halves16 _, rfl, rfl,
    halves16 _, ?_, ?_, ?_, ?_, ?_, fun a ha => peek_reserved s ha⟩
  · rw [peek_code, h, completion_codes cb hcb]
  · rw [peek_phase, h, phase_codes pb hpb]
  · rw [peek_endPhase, h, phase_codes pb hpb]
  · rw [peekRange_inBuf s le_rfl, whole]
  · rw [peekRange_txBuf s le_rfl, whole]
  · rw [peekRange_ackBuf s le_rfl, whole]
  · rw [peekRange_rxBuf s le_rfl, whole]
  · rw [peekRange_payload s le_rfl, whole]

/-! ### Who writes CSUM and the host's own registers -/

/-- The registers only the host writes, as they stand in s, are those of t (R24, R33 to R35, R37). -/
def SameHostRegs (s t : State) : Prop :=
  t.inBuf = s.inBuf ∧ t.inLen = s.inLen ∧ t.pollLimit = s.pollLimit ∧ t.settleTicks = s.settleTicks ∧
    t.endTxnEn = s.endTxnEn

@[simp] theorem writeReg_csum (r : Reg) (v : Byte) (s : State) : (writeReg r v s).csum = s.csum := by
  cases r <;> rfl

/-- No command writes the host's own registers. -/
theorem runCommand_sameHostRegs (v : Byte) (s : State) : SameHostRegs s (runCommand v (beginCommand v s)) := by
  obtain e | e | e | e | e | e := runCommand_cases v (beginCommand v s) <;> rw [e]
  · unfold runChecksum; split_ifs <;> exact ⟨rfl, rfl, rfl, rfl, rfl⟩
  · unfold runEncode; split_ifs <;> exact ⟨rfl, rfl, rfl, rfl, rfl⟩
  · exact ⟨rfl, rfl, rfl, rfl, rfl⟩
  · exact ⟨rfl, rfl, rfl, rfl, rfl⟩
  · unfold runExchange; split_ifs <;> exact ⟨rfl, rfl, rfl, rfl, rfl⟩
  · exact ⟨rfl, rfl, rfl, rfl, rfl⟩

/-- Only command 0x01 writes CSUM (R25). -/
theorem runCommand_csum {v : Byte} (hv : v ≠ 0x01#8) (s : State) : (runCommand v s).csum = s.csum := by
  rw [runCommand, if_neg hv]
  split_ifs
  · unfold runEncode; split_ifs <;> simp
  · simp [runDecode]
  · simp [runAckmatch, matchAck]
  · unfold runExchange; split_ifs <;> simp
  · simp [runBadCmd]

theorem BusEffect.checksum_of_csum_ne {w : BusWord} {s t : State} (he : BusEffect w s t) (hne : t.csum ≠ s.csum) :
    decode (.busWord w) = .ok .checksum := by
  cases he with
  | stored a v _ _ => exact absurd (writeReg_csum _ v s) hne
  | command v hdec _ =>
    by_cases hv : v = 0x01#8
    · subst hv; exact hdec
    · exact absurd (runCommand_csum hv _) hne
  | _ => exact absurd rfl hne

theorem BusEffect.sameHostRegs {w : BusWord} {s t : State} (he : BusEffect w s t)
    (hwr : ∀ a v, decode (.busWord w) ≠ .ok (.wr a v)) : SameHostRegs s t := by
  cases he with
  | stored a v hdec _ => exact absurd hdec (hwr a v)
  | command v _ _ => exact runCommand_sameHostRegs v s
  | _ => exact ⟨rfl, rfl, rfl, rfl, rfl⟩

/-- The sequencer writes neither. -/
theorem ChannelEffect.sameHostRegs {s t : State} (he : ChannelEffect s t) : SameHostRegs s t ∧ t.csum = s.csum := by
  cases he <;> simp [SameHostRegs, enterReadAck, storeResp, takeSample, matchAck]

/-- Settles O46: CSUM changes only by the effect of a CHECKSUM word, the host's registers only by that of a WR. -/
theorem writersOfHostRegisters : Obligations.WritersOfHostRegisters := by
  intro s t hstep hreset
  obtain ⟨_, rfl⟩ | ⟨e, rest, hin, hinput⟩ := step_next hstep
  · exact ⟨absurd rfl, fun _ => ⟨rfl, rfl, rfl, rfl, rfl⟩⟩
  rw [hin, List.head?_cons] at hreset ⊢
  cases inputStep_effect hinput with
  | bus hbus =>
    exact ⟨fun hne => ⟨_, rfl, hbus.checksum_of_csum_ne hne⟩,
      fun hwr => hbus.sameHostRegs fun a v => hwr a v _ rfl⟩
  | idleSeen => exact ⟨absurd rfl, fun _ => ⟨rfl, rfl, rfl, rfl, rfl⟩⟩
  | stillBusy => exact ⟨absurd rfl, fun _ => ⟨rfl, rfl, rfl, rfl, rfl⟩⟩
  | channel hch =>
    obtain ⟨hregs, hcsum⟩ := hch.sameHostRegs
    exact ⟨absurd hcsum, fun _ => hregs⟩
  | reset => exact absurd rfl hreset

end Sys2Proof.Machine
end

section
/-! The host's RD and WR at reserved addresses and bits (O3), and while an exchange is in flight (O6). -/

namespace Sys2Proof.Machine

/-! ### Reserved addresses and reserved bits -/

theorem volatileAddr_of_reserved {a : Addr} (h : reservedAddr a.toNat = true) : volatileAddr a.toNat = false := by
  rw [← regAt_volatile, (regAt_reserved a).mpr h]; rfl

theorem writableAddr_of_reserved {a : Addr} (h : reservedAddr a.toNat = true) : writableAddr a.toNat = false := by
  rw [← regAt_writable, (regAt_reserved a).mpr h]; rfl

/-- A RD of a reserved address gives 0x00, BUSY or not (R46). -/
theorem execRd_of_reserved {a : Addr} (h : reservedAddr a.toNat = true) (s : State) :
    execRd a s = .next (giveHost 0x00#8 s) := by
  rw [execRd_of_plain (.inr (volatileAddr_of_reserved h)), peek_reserved s h]

/-- A byte below 2 ^ k has its bits k to 7 clear. -/
theorem and_highBits_of_lt (k : Nat) {x : Byte} (h : x.toNat < 2 ^ k) : x &&& (0xFF#8 <<< k) = 0#8 := by
  ext i hi
  by_cases hk : k ≤ i
  · have hclear : x[i] = false := by
      rw [BitVec.getElem_eq_testBit_toNat]
      exact Nat.testBit_lt_two_pow (h.trans_le (Nat.pow_le_pow_right two_pos hk))
    simp [hclear]
  · simp [not_le.mp hk]

theorem statusByte_lt (s : State) : s.statusByte.toNat < 2 ^ 3 := by
  have hb := s.busy.toNat_le
  have hd := s.done.toNat_le
  have hr := s.rej.toNat_le
  rw [statusByte_toNat]
  omega

theorem Phase.toByte_lt (p : Phase) : p.toByte.toNat < 2 ^ 4 := by cases p <;> decide

theorem AckResult.toByte_lt (a : AckResult) : a.toByte.toNat < 2 ^ 3 := by
  have hm := a.matched.toNat_le
  have hl := a.long.toNat_le
  have hs := a.short.toNat_le
  rw [ackResult_toNat]
  omega

theorem RespFlags.toByte_lt (f : RespFlags) : f.toByte.toNat < 2 ^ 5 := by
  have hs := f.success.toNat_le
  have hb := f.layoutB.toNat_le
  have ht := f.trunc.toNat_le
  have hl := f.lcsOk.toNat_le
  have hd := f.dcsOk.toNat_le
  rw [respFlags_toNat]
  omega

theorem respLenHi_lt (x : BitVec 9) : ((x.extractLsb' 8 1).setWidth 8).toNat < 2 ^ 1 := by
  rw [BitVec.toNat_setWidth_of_le (by decide)]
  exact BitVec.isLt _

theorem flagBit_zero_lt (b : Bool) : (flagBit b 0).toNat < 2 ^ 1 := by cases b <;> decide

/-- A write of CTRL takes END_TXN_EN from bit 0 of the data and nothing else (R35, R46). -/
theorem writeReg_ctrl_and_one (v : Byte) (s : State) : writeReg .ctrl (v &&& 0x01#8) s = writeReg .ctrl v s := by
  simp [writeReg]

theorem execWr_ctrl_and_one (v : Byte) (s : State) : execWr 0x013#9 v s = execWr 0x013#9 (v &&& 0x01#8) s := by
  have hctrl : regAt 0x013#9 = .ctrl := rfl
  have hne : (0x013#9 : Addr) ≠ 0#9 := by decide
  simp only [execWr_of_ne_zero hne, hctrl, writeReg_ctrl_and_one]

/-- Settles O3: a reserved address is neither in the V set nor writable, and each register's byte stays below the
power of two its reserved bits begin at. -/
theorem reservedReadsZeroIgnoresWrites : Obligations.ReservedReadsZeroIgnoresWrites := fun s =>
  ⟨fun _ ha => ⟨execRd_of_reserved ha s, fun v => execWr_of_not_writable (writableAddr_of_reserved ha) v s⟩,
    and_highBits_of_lt 3 (statusByte_lt s), and_highBits_of_lt 4 s.phase.toByte_lt,
    and_highBits_of_lt 4 s.endPhase.toByte_lt, and_highBits_of_lt 3 s.ackResult.toByte_lt,
    and_highBits_of_lt 5 s.respFlags.toByte_lt, and_highBits_of_lt 1 (respLenHi_lt s.respLen),
    and_highBits_of_lt 1 (flagBit_zero_lt s.endTxnEn), fun v => execWr_ctrl_and_one v s⟩

/-! ### The host while an exchange is in flight -/

/-- What the instruction of a bus word does while BUSY = 1: a RD gives the host a byte, a WR or a command sets
REJ or is ignored, and none is refused. -/
theorem exec_busWord_of_busy {w : BusWord} {i : Instr} {s : State} (hdec : decode (.busWord w) = .ok i)
    (hbusy : s.busy = true) :
    ∃ (r : Bool) (d : Byte) (n : Nat), exec i s = .next { s with rej := r, rdData := d, draws := n } := by
  obtain ⟨a, rfl⟩ | ⟨a, v, -, rfl⟩ | ⟨v, rfl⟩ := decode_busWord_cases hdec
  · cases hvol : volatileAddr a.toNat
    · exact ⟨s.rej, s.peek a, s.draws, execRd_of_plain (.inr hvol)⟩
    · exact ⟨s.rej, Config.anyByte s.draws, s.draws + 1, execRd_of_volatile hbusy hvol⟩
  · cases hw : writableAddr a.toNat
    · exact ⟨s.rej, s.rdData, s.draws, execWr_of_not_writable hw v s⟩
    · exact ⟨true, s.rdData, s.draws, execWr_of_busy hbusy hw v⟩
  · exact ⟨true, s.rdData, s.draws, (exec_decodeCommand v s).trans (hostCommand_of_busy hbusy)⟩

/-- Settles O6: the step runs the word's instruction once the turn is taken, with BUSY still 1. -/
theorem hostCannotDisturbExchange : Obligations.HostCannotDisturbExchange := by
  intro s w rest i hinputs hbusy hdec
  rw [stepRunsBusWord s w rest i hinputs hdec]
  exact exec_busWord_of_busy (s := { s with inputs := rest }) hdec hbusy

end Sys2Proof.Machine
end

section
/-! The encoder and the decoder (R59, R60, R67, R110, R115): a bus word is its three fields, `decodeCommand` and
`decodeDataExchange` name each a well-formed instruction that is encoded by what was read. -/

namespace Sys2Proof.Machine

open Sys2Proof.Laws

/-! ### The fields of a bus word -/

/-- W, ADDR and DATA are all of a bus word (R59). -/
theorem busWord_ext {w u : BusWord} (hw : busW w = busW u) (ha : busAddr w = busAddr u)
    (hd : busData w = busData u) : w = u := by
  apply BitVec.eq_of_getLsbD_eq
  intro k hk
  obtain hlow | hmid | rfl : k < 8 ∨ (8 ≤ k ∧ k < 17) ∨ k = 17 := by omega
  · simpa [busData, hlow] using congrArg (·.getLsbD k) hd
  · have hbit := congrArg (·.getLsbD (k - 8)) ha
    simpa [busAddr, show k - 8 < 9 by omega, Nat.add_sub_cancel' hmid.1] using hbit
  · exact hw

/-- A word with W = 0 and no DATA is the RD of its ADDR. -/
theorem readWord_busAddr {w : BusWord} (hw : busW w = false) (hd : busData w = 0#8) : readWord (busAddr w) = w :=
  busWord_ext ((busW_readWord _).trans hw.symm) (busAddr_readWord _) ((busData_readWord _).trans hd.symm)

/-- A word with W = 1 is the WR of its DATA to its ADDR. -/
theorem writeWord_busAddr_busData {w : BusWord} (hw : busW w = true) : writeWord (busAddr w) (busData w) = w :=
  busWord_ext ((busW_writeWord _ _).trans hw.symm) (busAddr_writeWord _ _) (busData_writeWord _ _)

theorem busW_iff (w : BusWord) : busW w = true ↔ 0x20000 ≤ w.toNat := by
  have hmsb : busW w = w.msb := rfl
  rw [hmsb, BitVec.msb_eq_decide, decide_eq_true_iff]

theorem busData_toNat (w : BusWord) : (busData w).toNat = w.toNat % 256 := by
  simp [busData, BitVec.extractLsb'_toNat]

/-! ### Bus words -/

/-- Which words the decoder accepts: every WR, and a RD with DATA = 0x00 (R67). -/
theorem decode_busWord_isOk {w : BusWord} (h : busW w = true ∨ busData w = 0#8) :
    ∃ i, decode (.busWord w) = .ok i := by
  simp only [decode, decodeBusWord]
  split_ifs with hw ha hd
  · exact ⟨_, rfl⟩
  · exact ⟨_, rfl⟩
  · exact ⟨_, rfl⟩
  · exact absurd h (not_or.mpr ⟨hw, hd⟩)

theorem decode_readWithData {w : BusWord} (hw : busW w = false) (hd : busData w ≠ 0#8) :
    decode (.busWord w) = .error .readWithData := by
  simp [decode, decodeBusWord, hw, hd]

theorem decode_readWord (a : Addr) : decode (.busWord (readWord a)) = .ok (.rd a) := by
  simp [decode, decodeBusWord, busW_readWord, busAddr_readWord, busData_readWord]

theorem decode_writeWord {a : Addr} (ha : a ≠ 0#9) (v : Byte) :
    decode (.busWord (writeWord a v)) = .ok (.wr a v) := by
  simp [decode, decodeBusWord, busW_writeWord, busAddr_writeWord, busData_writeWord, ha]

/-- A WR to CMD is the command its byte names (R60). -/
theorem decode_writeWord_cmd (v : Byte) : decode (.busWord (writeWord 0#9 v)) = .ok (decodeCommand v) := by
  simp [decode, decodeBusWord, busW_writeWord, busAddr_writeWord, busData_writeWord]

/-- Only the codes 0x01 to 0x05 name a command other than BAD_CMD (R102). -/
theorem decodeCommand_of_reserved {v : Byte} (h : v = 0#8 ∨ 5 < v.toNat) : decodeCommand v = .badCmd v := by
  unfold decodeCommand
  split_ifs <;> subst_vars
  case neg => rfl
  all_goals exact absurd h (by decide)

theorem decodeCommand_wf (v : Byte) : (decodeCommand v).wf = true := by
  unfold decodeCommand
  split_ifs with h1 h2 h3 h4 h5
  case neg =>
    have hreserved : v = 0#8 ∨ 5 < v.toNat := by bv_omega
    simpa [Instr.wf] using hreserved
  all_goals rfl

theorem encode_decodeCommand (v : Byte) : encode (decodeCommand v) = .busWord (writeWord 0#9 v) := by
  unfold decodeCommand
  split_ifs <;> subst_vars <;> rfl

/-! ### Payloads -/

/-- An InDataExchange of at most IN_MAX bytes is read by its arguments (R115). -/
theorem decode_dataExchange {args : List Byte} (h : args.length + 1 ≤ Config.inMax) :
    decode (.payload (0x40#8 :: args)) = .ok (decodeDataExchange args) :=
  if_neg (Nat.not_lt.mpr h)

theorem decodeDataExchange_of_no_subCommand {args : List Byte} (h : hasSubCommand args = false) :
    decodeDataExchange args = .inDataExchange args := by
  match args, h with
  | [], _ => rfl
  | [_], _ => rfl
  | tg :: sub :: rest, h =>
    have hsub : sub ∉ subCommands := by simpa [hasSubCommand] using h
    simp only [subCommands, List.mem_cons, List.not_mem_nil, or_false, not_or] at hsub
    simp [decodeDataExchange, hsub]

theorem decodeDataExchange_wf {args : List Byte} (h : args.length + 1 ≤ Config.inMax) :
    (decodeDataExchange args).wf = true := by
  match args, h with
  | [], _ => rfl
  | [_], _ => rfl
  | tg :: sub :: rest, h =>
    simp only [decodeDataExchange]
    split_ifs
    case neg =>
      have hsub : hasSubCommand (tg :: sub :: rest) = false := by simp [hasSubCommand, subCommands, *]
      simp only [Instr.wf, hsub, decide_eq_true h, Bool.not_false, Bool.and_self]
    all_goals exact decide_eq_true h

theorem encode_decodeDataExchange (args : List Byte) :
    encode (decodeDataExchange args) = .payload (0x40#8 :: args) := by
  match args with
  | [] => rfl
  | [_] => rfl
  | tg :: sub :: rest =>
    simp only [decodeDataExchange]
    split_ifs <;> subst_vars <;> rfl

/-! ### Encode and decode agree -/

/-- Settles O38: the fields of a RD or WR word are those it was built from, and a payload is read by its opcode and
its sub-command. -/
theorem decodeOfEncode : Obligations.DecodeOfEncode := by
  intro i hwf
  cases i with
  | rd a => exact decode_readWord a
  | wr a v => exact decode_writeWord (bne_iff_ne.mp hwf) v
  | checksum | encode | decode | ackmatch | exchange => exact decode_writeWord_cmd _
  | badCmd code =>
    have hreserved : code = 0#8 ∨ 5 < code.toNat := by simpa [Instr.wf] using hwf
    rw [encode, decode_writeWord_cmd, decodeCommand_of_reserved hreserved]
  | getFirmwareVersion args | samConfiguration args | rfConfiguration args | inListPassiveTarget args =>
    exact if_neg (Nat.not_lt.mpr (of_decide_eq_true hwf))
  | inDataExchange args =>
    obtain ⟨hlen, hsub⟩ : args.length + 1 ≤ Config.inMax ∧ hasSubCommand args = false := by
      simpa [Instr.wf] using hwf
    rw [encode, decode_dataExchange hlen, decodeDataExchange_of_no_subCommand hsub]
  | authenticateA tg args | authenticateB tg args | read16 tg args | write16 tg args | increment tg args
  | decrement tg args | transfer tg args => exact decode_dataExchange (of_decide_eq_true hwf)

theorem wf_encode_of_decode_busWord {w : BusWord} {i : Instr} (h : decode (.busWord w) = .ok i) :
    i.wf = true ∧ encode i = .busWord w := by
  simp only [decode, decodeBusWord] at h
  split_ifs at h with hw ha hd <;> cases h
  · exact ⟨decodeCommand_wf _, by rw [encode_decodeCommand, ← ha, writeWord_busAddr_busData hw]⟩
  · exact ⟨bne_iff_ne.mpr ha, by rw [encode, writeWord_busAddr_busData hw]⟩
  · exact ⟨rfl, by rw [encode, readWord_busAddr (Bool.eq_false_iff.mpr hw) hd]⟩

theorem wf_encode_of_decode_payload {p : List Byte} {i : Instr} (h : decode (.payload p) = .ok i) :
    i.wf = true ∧ encode i = .payload p := by
  cases p with
  | nil => cases h
  | cons op args =>
    simp only [decode, decodePayload] at h
    split_ifs at h with hlong <;> cases h <;> subst_vars
    iterate 4 exact ⟨decide_eq_true (Nat.not_lt.mp hlong), rfl⟩
    exact ⟨decodeDataExchange_wf (Nat.not_lt.mp hlong), encode_decodeDataExchange args⟩

/-- Settles O39: the two kinds of encoding, each by the branches of its decoder. -/
theorem encodeOfDecode : Obligations.EncodeOfDecode := by
  intro e i h
  cases e with
  | busWord w => exact wf_encode_of_decode_busWord h
  | payload p => exact wf_encode_of_decode_payload h

/-- Settles O7: W and DATA are the word's bits 17 and 7:0, and what decodes is well-formed. -/
theorem onlyReadWithDataIsIllegal : Obligations.OnlyReadWithDataIsIllegal := by
  intro w s rest hinputs
  refine ⟨fun hlow hdata => ?_, fun hlegal => ?_⟩
  · have hw : busW w = false := Bool.eq_false_iff.mpr (mt (busW_iff w).mp (Nat.not_le.mpr hlow))
    have hd : busData w ≠ 0#8 := fun h0 => hdata (by rw [← busData_toNat, h0]; rfl)
    rw [step_cons hinputs]
    simp only [inputStep, busStep, decode_readWithData hw hd]
  · have hd : w.toNat % 256 = 0 → busData w = 0#8 := fun h0 => BitVec.eq_of_toNat_eq ((busData_toNat w).trans h0)
    obtain ⟨i, hdec⟩ := decode_busWord_isOk (hlegal.imp (busW_iff w).mpr hd)
    exact ⟨i, hdec, (wf_encode_of_decode_busWord hdec).1⟩

/-- Settles O37: each word's fields are evaluated. -/
theorem writtenWordsDecode : Obligations.WrittenWordsDecode :=
  ⟨rfl, rfl, rfl, rfl, rfl, rfl, rfl, rfl, rfl⟩

end Sys2Proof.Machine
end

section
/-! WAITIDLE (R68, R105): one RD of STATUS, again while BUSY = 1. -/

namespace Sys2Proof.Machine

/-- Bit 0 of STATUS is BUSY (R20). -/
theorem statusByte_getLsbD_zero (s : State) : s.statusByte.getLsbD 0 = s.busy := by
  unfold State.statusByte
  cases s.busy <;> cases s.done <;> cases s.rej <;> rfl

/-- WAITIDLE gives the host STATUS, and is the next turn again while BUSY = 1 (R68, R105). -/
theorem waitIdleStep_eq (s : State) : waitIdleStep s = .next { giveHost (s.peek 0x001#9) s with
    inputs := if s.busy then .waitIdle :: s.inputs else s.inputs } := by
  have hread : exec (.rd 0x001#9) s = .next (giveHost (s.peek 0x001#9) s) := execRd_of_plain (.inr rfl)
  have hbusy : (s.peek 0x001#9).getLsbD 0 = s.busy := statusByte_getLsbD_zero s
  simp only [waitIdleStep, hread, giveHost, hbusy]
  split_ifs <;> rfl

/-- Settles O32: the turn at the head is taken, and WAITIDLE puts it back while BUSY = 1. -/
theorem waitIdleReadsStatus : Obligations.WaitIdleReadsStatus := by
  intro s rest hinputs
  have hstep : step s = .next { s with
      inputs := if s.busy then .waitIdle :: rest else rest, rdData := s.peek 0x001#9 } :=
    (step_cons hinputs).trans (waitIdleStep_eq _)
  refine ⟨fun hbusy => ?_, fun hidle => ?_⟩
  · rw [hstep, if_pos hbusy, ← hinputs]
  · rw [hstep, if_neg (Bool.eq_false_iff.mp hidle)]

end Sys2Proof.Machine
end

section
/-! The pure functions of the codec: Checksum (O8, O9), EncodeFrame (O10, O11) and DecodeFrame (O12, O13). -/

namespace Sys2Proof.Machine

/-! ### Checksum -/

/-- A checksum is 0x00 exactly for a sum of 0 mod 256 (R69). -/
theorem checksum_eq_zero_iff (s : List Byte) : checksum s = 0x00#8 ↔ byteSum s % 256 = 0 := by
  rw [← BitVec.toNat_inj, checksum_toNat, BitVec.toNat_ofNat]
  omega

/-- Settles O8: the formula is `checksum_toNat`, and the corner cases are evaluated. -/
theorem checksumFormula : Obligations.ChecksumFormula :=
  ⟨fun s => ⟨checksum_toNat s, checksum_eq_zero_iff s⟩, rfl, rfl, rfl⟩

/-- A sequence and its checksum sum to 0 mod 256 (R70). -/
theorem byteSum_add_checksum (s : List Byte) : (byteSum s + (checksum s).toNat) % 256 = 0 := by
  rw [checksum_toNat]
  omega

/-- The checksum depends on the sum mod 256 alone (R70). -/
theorem checksum_congr {s t : List Byte} (h : byteSum s % 256 = byteSum t % 256) : checksum s = checksum t := by
  rw [checksum, checksum, h]

theorem byteSum_eq_sum (s : List Byte) : byteSum s = (s.map BitVec.toNat).sum := by
  induction s with
  | nil => rfl
  | cons b bs ih => rw [byteSum_cons, ih, List.map_cons, List.sum_cons]

/-- The sum of a sequence does not depend on the order of its bytes. -/
theorem byteSum_perm {s t : List Byte} (h : s.Perm t) : byteSum s = byteSum t := by
  rw [byteSum_eq_sum, byteSum_eq_sum, (h.map BitVec.toNat).sum_eq]

/-- Settles O9: a checksum is fixed by the sum mod 256, which a permutation leaves. -/
theorem checksumLaw : Obligations.ChecksumLaw :=
  ⟨byteSum_add_checksum, fun _ _ => checksum_congr, fun _ _ h => checksum_congr (congrArg (· % 256) (byteSum_perm h))⟩

/-! ### EncodeFrame -/

/-- A frame, byte by byte up to its payload (R62, R71). -/
theorem encodeFrame_eq (p : List Byte) :
    encodeFrame p = 0x00#8 :: 0xFF#8 :: BitVec.ofNat 8 (p.length + 1) :: checksum [BitVec.ofNat 8 (p.length + 1)] ::
      0xD4#8 :: (p ++ [checksum (0xD4#8 :: p)]) := rfl

/-- From the direction marker on, a frame is the payload and its checksum (R71). -/
theorem encodeFrame_getElem?_add_five (p : List Byte) (i : Nat) :
    (encodeFrame p)[5 + i]? = (p ++ [checksum (0xD4#8 :: p)])[i]? := by
  rw [Nat.add_comm, encodeFrame_eq]
  rfl

/-- Settles O10: the five bytes before the payload stand as `encodeFrame_eq` writes them, the others are those of the
payload and its checksum. -/
theorem encodeFrameBytes : Obligations.EncodeFrameBytes := by
  intro p _ hmax
  have hlen : (BitVec.ofNat 8 (p.length + 1)).toNat = p.length + 1 := by
    rw [BitVec.toNat_ofNat]
    omega
  refine ⟨encodeFrame_length p, rfl, rfl, congrArg some hlen, rfl, rfl, fun i hi => ?_, ?_⟩
  · rw [encodeFrame_getElem?_add_five, List.getElem?_append_left hi]
  · rw [encodeFrame_getElem?_add_five, List.getElem?_concat_length]

/-- LEN and LCS sum to 0 mod 256 (R72). -/
theorem len_add_lcs (b : Byte) : (b.toNat + (checksum [b]).toNat) % 256 = 0 :=
  byteSum_add_checksum [b]

/-- Settles O11: LEN with LCS and the direction marker with the payload and DCS are each a sequence with its
checksum. -/
theorem encodedFrameSumsToZero : Obligations.EncodedFrameSumsToZero := by
  intro p _ _
  have hlcs := len_add_lcs (BitVec.ofNat 8 (p.length + 1))
  have hdcs := byteSum_add_checksum (0xD4#8 :: p)
  refine ⟨?_, hlcs⟩
  calc byteSum ((encodeFrame p).drop 2) % 256
      _ = ((BitVec.ofNat 8 (p.length + 1)).toNat + (checksum [BitVec.ofNat 8 (p.length + 1)]).toNat
            + (byteSum (0xD4#8 :: p) + (checksum (0xD4#8 :: p)).toNat)) % 256 := by
          simp only [encodeFrame_eq, List.drop_succ_cons, List.drop_zero, byteSum_cons, byteSum_append, byteSum_nil,
            add_assoc, add_zero]
      _ = 0 := by omega

/-! ### The bytes DecodeFrame reads -/

section
variable {raw raw' : Vector Byte 64} {c start : Nat}

theorem rawAt_eq_getElem (raw : Vector Byte 64) {i : Nat} (h : i < 64) : rawAt raw i = raw[i] := by
  simp [rawAt, h]

/-- raw[a..b), byte by byte (R10). -/
theorem rawSlice_eq_map (raw : Vector Byte 64) {a b : Nat} (hb : b ≤ 64) :
    rawSlice raw a b = (List.range (b - a)).map fun i => rawAt raw (a + i) := by
  apply List.ext_getElem
  · simp [rawSlice]
    omega
  · intro i h1 h2
    have hi : i < b - a := by simpa using h2
    simp [rawSlice, rawAt_eq_getElem raw (show a + i < 64 by omega)]

/-- Buffers that agree on their first c bytes agree at each of them. -/
theorem rawAt_congr (h : raw.toList.take c = raw'.toList.take c) {i : Nat} (hi : i < c) :
    rawAt raw i = rawAt raw' i := by
  have hget := congrArg (·.getD i 0x00#8) h
  simpa [rawAt, List.getElem?_take, hi] using hget

/-- Buffers that agree on their first c bytes have the same slices below c. -/
theorem rawSlice_congr (h : raw.toList.take c = raw'.toList.take c) (a : Nat) {b : Nat} (hb : b ≤ c) :
    rawSlice raw a b = rawSlice raw' a b := by
  have htake : raw.toList.take b = raw'.toList.take b := by
    simpa [List.take_take, Nat.min_eq_left hb] using congrArg (List.take b) h
  rw [rawSlice, rawSlice, ← List.drop_take, ← List.drop_take, htake]

/-! ### The layout and the flags -/

/-- The two layouts by their first two bytes (R64, R73). -/
theorem responseLayout_eq_some_iff {b : Bool} :
    responseLayout raw c = some (start, b) ↔
      (2 ≤ c ∧ raw[0] = 0x00#8 ∧ raw[1] = 0xFF#8 ∧ start = 2 ∧ b = false) ∨
        (2 ≤ c ∧ raw[0] = 0x01#8 ∧ raw[1] = 0x00#8 ∧ start = 4 ∧ b = true) := by
  rw [responseLayout, rawAt_eq_getElem raw (by decide : 0 < 64), rawAt_eq_getElem raw (by decide : 1 < 64)]
  split_ifs with hA hB <;> grind

theorem truncFlag_iff : truncFlag raw c start = true ↔ c - start < (rawAt raw start).toNat + 4 := by
  rw [truncFlag, decide_eq_true_iff, declaredLength_toNat]

theorem lcsFlag_iff : lcsFlag raw c start = true ↔
    start + 1 < c ∧ ((rawAt raw start).toNat + (rawAt raw (start + 1)).toNat) % 256 = 0 := by
  rw [lcsFlag, Bool.and_eq_true, decide_eq_true_iff, beq_iff_eq]

/-- The bytes DCS_OK sums stand below the received count, so within the buffer. -/
theorem dcsFlag_iff (hc : c ≤ 64) : dcsFlag raw c start = true ↔
    start + 2 + (rawAt raw start).toNat < c ∧
      byteSum ((List.range ((rawAt raw start).toNat + 1)).map fun i => rawAt raw (start + 2 + i)) % 256 = 0 := by
  rw [dcsFlag, Bool.and_eq_true, decide_eq_true_iff, beq_iff_eq]
  refine and_congr_right fun hlt => ?_
  have hlen : start + 3 + (rawAt raw start).toNat - (start + 2) = (rawAt raw start).toNat + 1 := by omega
  rw [rawSlice_eq_map raw (by omega), hlen]

theorem availBytes_eq (raw : Vector Byte 64) (c start : Nat) :
    availBytes raw c start = min ((rawAt raw start).toNat + 4) (c - start) := by
  rw [availBytes, declaredLength_toNat]

/-! ### DecodeFrame -/

theorem decodeFrame_of_no_layout (h : responseLayout raw c = none) :
    decodeFrame raw c = { flags := .clear, len9 := 0#9, avail := 0#8, payload := [] } := by
  rw [decodeFrame, h]

theorem decodeFrame_of_no_length {b : Bool} (h : responseLayout raw c = some (start, b)) (hc : c ≤ start) :
    decodeFrame raw c =
      { flags := { RespFlags.clear with trunc := true }, len9 := 0#9, avail := 0#8, payload := [] } := by
  simp only [decodeFrame, h, if_pos hc]

theorem decodeFrame_of_length {b : Bool} (h : responseLayout raw c = some (start, b)) (hc : start < c) :
    decodeFrame raw c = decodeWindow raw c start b := by
  simp only [decodeFrame, h, if_neg (Nat.not_le.mpr hc)]

/-- The bytes reported fit RESP_AVAIL (R32). -/
theorem decodeWindow_avail_toNat (raw : Vector Byte 64) (hc : c ≤ 64) (start : Nat) (b : Bool) :
    (decodeWindow raw c start b).avail.toNat = availBytes raw c start := by
  have := availBytes_le raw c start
  rw [decodeWindow, BitVec.toNat_ofNat]
  omega

/-- The payload of a window is the received bytes from the length byte on (R73). -/
theorem decodeWindow_payload_getElem? {i : Nat} (b : Bool) (hi : i < availBytes raw c start) :
    (decodeWindow raw c start b).payload[i]? = raw.toList[start + i]? := by
  rw [decodeWindow, rawSlice, List.getElem?_take_of_lt (by omega), List.getElem?_drop]

end

/-- Settles O12: the first two bytes and the count choose the branch, and each field of a window is read off by its
lemma. -/
theorem decodeFrameFields : Obligations.DecodeFrameFields := by
  intro raw c hc
  refine ⟨fun hA hB => decodeFrame_of_no_layout (Option.eq_none_iff_forall_ne_some.mpr ?_), fun start layoutB hl => ?_⟩
  · rintro ⟨start, b⟩ hl
    obtain ⟨h2, h0, h1, -⟩ | ⟨h2, h0, h1, -⟩ := responseLayout_eq_some_iff.mp hl
    · exact hA ⟨h2, h0, h1⟩
    · exact hB ⟨h2, h0, h1⟩
  · have hl := responseLayout_eq_some_iff.mpr hl
    refine ⟨decodeFrame_of_no_length hl, fun hs => ?_⟩
    have hdecode := decodeFrame_of_length hl hs
    have havail := decodeWindow_avail_toNat raw hc start layoutB
    have hbyte : raw.toList[start]? = some (rawAt raw start) := by
      simp [rawAt, show start < 64 by omega]
    exact ⟨(rawAt raw start).toNat, _, congrArg (Option.map _) hbyte, hdecode, rfl, rfl,
      declaredLength_toNat raw start, havail.trans (availBytes_eq raw c start), truncFlag_iff, lcsFlag_iff,
      dcsFlag_iff hc, hdecode ▸ decodeFrame_payload_length raw hc,
      fun i hi => decodeWindow_payload_getElem? layoutB (havail ▸ hi)⟩

/-! ### DecodeFrame reads only received bytes -/

section
variable {raw raw' : Vector Byte 64} {c start : Nat}

theorem responseLayout_congr (h : raw.toList.take c = raw'.toList.take c) :
    responseLayout raw c = responseLayout raw' c := by
  by_cases hc : 2 ≤ c
  · rw [responseLayout, responseLayout, rawAt_congr h (show 0 < c by omega), rawAt_congr h (show 1 < c by omega)]
  · simp only [responseLayout, hc, false_and, if_false]

theorem lcsFlag_congr (h : raw.toList.take c = raw'.toList.take c) (hs : start < c) :
    lcsFlag raw c start = lcsFlag raw' c start := by
  rw [Bool.eq_iff_iff, lcsFlag_iff, lcsFlag_iff, rawAt_congr h hs]
  exact and_congr_right fun hlt => by rw [rawAt_congr h hlt]

theorem dcsFlag_congr (h : raw.toList.take c = raw'.toList.take c) (hs : start < c) :
    dcsFlag raw c start = dcsFlag raw' c start := by
  rw [dcsFlag, dcsFlag, rawAt_congr h hs]
  by_cases hlt : start + 2 + (rawAt raw' start).toNat < c
  · rw [rawSlice_congr h _ (show start + 3 + (rawAt raw' start).toNat ≤ c by omega)]
  · simp only [hlt, decide_false, Bool.false_and]

theorem declaredLength_congr (h : raw.toList.take c = raw'.toList.take c) (hs : start < c) :
    declaredLength raw start = declaredLength raw' start := by
  rw [declaredLength, declaredLength, rawAt_congr h hs]

/-- No field of a window reads beyond the received count: the checksum bytes are tested first, and the payload ends
at it. -/
theorem decodeWindow_congr (h : raw.toList.take c = raw'.toList.take c) (hs : start < c) (b : Bool) :
    decodeWindow raw c start b = decodeWindow raw' c start b := by
  have hle := availBytes_le raw' c start
  have hlen := declaredLength_congr h hs
  have havail : availBytes raw c start = availBytes raw' c start := by rw [availBytes, availBytes, hlen]
  simp only [decodeWindow, truncFlag, hlen, havail, lcsFlag_congr h hs, dcsFlag_congr h hs,
    rawSlice_congr h start (show start + availBytes raw' c start ≤ c by omega)]

end

/-- Settles O13: in each case of `decodeFrame_cases` the layout is the same, and so is the window. -/
theorem decodeReadsOnlyReceivedBytes : Obligations.DecodeReadsOnlyReceivedBytes := by
  intro raw raw' c _ h
  have hlayout := responseLayout_congr h
  obtain ⟨hl, hdecode⟩ | ⟨start, b, hl, hs, hdecode⟩ | ⟨start, b, hl, hs, hdecode⟩ := decodeFrame_cases raw c
  · rw [hdecode, decodeFrame_of_no_layout (hlayout ▸ hl)]
  · rw [hdecode, decodeFrame_of_no_length (hlayout ▸ hl) hs]
  · rw [hdecode, decodeFrame_of_length (hlayout ▸ hl) hs, decodeWindow_congr h hs]

end Sys2Proof.Machine
end

section
/-! The commands of the codec: CHECKSUM (O16), ENCODE (O17) and DECODE (O18). Each is accepted, stores its result and
finishes in one step, so what is common to them is said once: the report of the finish, and the bytes each operation
leaves. -/

namespace Sys2Proof.Machine

variable {s t u : State} {A B : List Nat}

/-! ### Which bytes an operation leaves -/

theorem SameBytesExcept.refl (s : State) : SameBytesExcept A s s := fun _ _ => rfl

theorem SameBytesExcept.trans (h : SameBytesExcept A s t) (h' : SameBytesExcept B t u) :
    SameBytesExcept (A ++ B) s u := fun a ha => by
  rw [List.mem_append, not_or] at ha
  rw [h' a ha.2, h a ha.1]

theorem SameBytesExcept.mono (h : SameBytesExcept A s t) (hsub : A ⊆ B) : SameBytesExcept B s t :=
  fun a ha => h a (mt (@hsub _) ha)

/-- A buffer byte outside the stored range stands at or beyond its end. -/
theorem le_of_not_mem_addrRange {base n i : Nat} (h : base + i ∉ addrRange base n) : n ≤ i := by
  rw [mem_addrRange] at h
  omega

/-- Accepting a command writes CMD, STATUS and CODE (R101). -/
theorem beginCommand_sameBytes (v : Byte) (s : State) :
    SameBytesExcept [0x000, 0x001, 0x002] s (beginCommand v s) :=
  sameBytesExcept_of_regs fun r hr => by
    cases r with
    | cmd | status | code => exact absurd (by decide) hr
    | _ => rfl

/-- A finish writes STATUS, CODE, PHASE and END_PHASE (R93). -/
theorem finish_sameBytes (c : Completion) (s : State) :
    SameBytesExcept [0x001, 0x002, 0x003, 0x004] s (finish c s) :=
  sameBytesExcept_of_regs fun r hr => by
    cases r with
    | status | code | phase | endPhase => exact absurd (by decide) hr
    | _ => rfl

theorem setCsum_sameBytes (v : Byte) (s : State) : SameBytesExcept [0x006] s (setCsum v s) :=
  sameBytesExcept_of_regs fun r hr => by
    cases r with
    | csum => exact absurd (by decide) hr
    | _ => rfl

/-- ENCODE's store writes TX_LEN and the frame (R76). -/
theorem storeFrame_sameBytes (s : State) :
    SameBytesExcept (0x007 :: addrRange 0x060 (s.inBytes.length + 6)) s (storeFrame s) :=
  sameBytesExcept_of_regs fun r hr => by
    cases r with
    | txLen => exact absurd List.mem_cons_self hr
    | txBuf i =>
      have hi : s.inBytes.length + 6 ≤ i.val := le_of_not_mem_addrRange (List.not_mem_of_not_mem_cons hr)
      exact overlay_getElem_of_le s.txBuf _ i.val i.isLt ((encodeFrame_length _).trans_le hi)
    | _ => rfl

/-- WriteResp writes the response registers and the payload bytes (R74). -/
theorem writeResp_sameBytes (r : Response) (s : State) :
    SameBytesExcept ([0x00B, 0x00C, 0x00D, 0x00E] ++ addrRange 0x100 r.payload.length) s (writeResp r s) :=
  sameBytesExcept_of_regs fun reg hreg => by
    rw [List.mem_append, not_or] at hreg
    obtain ⟨hlow, hrange⟩ := hreg
    cases reg with
    | respFlags | respLenLo | respLenHi | respAvail => exact absurd (by decide) hlow
    | payload i =>
      have hi : r.payload.length ≤ i.val := le_of_not_mem_addrRange hrange
      exact overlay_getElem_of_le s.payload _ i.val i.isLt hi
    | _ => rfl

/-! ### The report of a command that finishes in its acceptance -/

/-- What the host reads once command v has finished with code c, having stored at the addresses A, and what the
finish leaves of the hidden state (R93, R101). -/
structure Reported (v : Byte) (c : Completion) (A : List Nat) (s t : State) : Prop where
  cmd : t.peek 0x000#9 = v
  status : t.peek 0x001#9 = 0x02#8
  code : t.peek 0x002#9 = c.toByte
  phase : t.peek 0x003#9 = 0x00#8
  endPhase : t.peek 0x004#9 = 0x00#8
  bytes : SameBytesExcept ([0x000, 0x001, 0x002, 0x003, 0x004] ++ A) s t
  req : t.req = .none
  sampleDue : t.sampleDue = false
  settleCnt : t.settleCnt = 0#8
  outside : SameOutside s t

/-- The state u that a store at A made of the accepted one, CMD, REJ, PHASE and the model's own fields left alone, is
reported by the finish. -/
theorem finish_reported {v : Byte} (c : Completion) (hidle : s.phase = .idle)
    (hstore : SameBytesExcept A (beginCommand v s) u) (hcmd : u.cmd = v) (hrej : u.rej = false)
    (hphase : u.phase = s.phase) (houtside : SameOutside s u) : Reported v c A s (finish c u) where
  cmd := hcmd
  status := by rw [peek_status, State.statusByte, finish_busy, finish_done, finish_rej, hrej]; rfl
  code := rfl
  phase := rfl
  endPhase := by rw [peek_endPhase, finish_endPhase, hphase, hidle]; rfl
  bytes := (((beginCommand_sameBytes v s).trans hstore).trans (finish_sameBytes c u)).mono (by grind)
  req := rfl
  sampleDue := rfl
  settleCnt := rfl
  outside := houtside

/-- A command refused for its length stores nothing. -/
theorem refused_reported (v : Byte) (c : Completion) (hidle : s.phase = .idle) :
    Reported v c [] s (finish c (beginCommand v s)) :=
  finish_reported c hidle (.refl _) rfl rfl rfl ⟨rfl, rfl, rfl, rfl, rfl⟩

/-! ### CHECKSUM -/

theorem checksumLengthOk_iff : s.checksumLengthOk = true ↔ s.inLen.toNat ≤ 64 :=
  decide_eq_true_iff

theorem inBytes_eq_peekRange (h : s.inLen.toNat ≤ 64) : s.inBytes = s.peekRange 0x020 s.inLen.toNat :=
  (peekRange_inBuf s h).symm

/-- Settles O16: IN_LEN chooses between a store into CSUM and no store, and either is reported by its finish. -/
theorem checksumCommand : Obligations.ChecksumCommand := by
  refine ⟨rfl, fun s hbusy => hostCommand_of_busy hbusy, fun s hbusy hidle =>
    ⟨runChecksum (beginCommand 0x01#8 s), hostCommand_of_idle hbusy, ?_⟩⟩
  by_cases hlen : s.inLen.toNat ≤ 64
  · have hrun : runChecksum (beginCommand 0x01#8 s)
        = finish .ok (setCsum (checksum s.inBytes) (beginCommand 0x01#8 s)) :=
      if_pos (checksumLengthOk_iff.mpr hlen)
    have hrep := finish_reported .ok hidle (setCsum_sameBytes (checksum s.inBytes) (beginCommand 0x01#8 s))
      rfl rfl rfl ⟨rfl, rfl, rfl, rfl, rfl⟩
    rw [hrun]
    refine ⟨hrep.cmd, hrep.status, hrep.phase, hrep.endPhase, fun _ => ⟨hrep.code, ?_⟩,
      fun hgt => absurd hlen (Nat.not_le.mpr hgt), hrep.bytes, hrep.req, hrep.sampleDue, hrep.settleCnt, hrep.outside⟩
    rw [peek_csum, finish_csum, setCsum_csum, inBytes_eq_peekRange hlen]
  · have hrun : runChecksum (beginCommand 0x01#8 s) = finish .badLength (beginCommand 0x01#8 s) :=
      if_neg (mt checksumLengthOk_iff.mp hlen)
    have hrep := refused_reported 0x01#8 .badLength hidle
    rw [hrun]
    exact ⟨hrep.cmd, hrep.status, hrep.phase, hrep.endPhase, fun hle => absurd hle hlen,
      fun _ => ⟨hrep.code, rfl⟩, hrep.bytes.mono (by decide), hrep.req, hrep.sampleDue, hrep.settleCnt, hrep.outside⟩

/-! ### ENCODE -/

theorem frameLengthOk_iff : s.frameLengthOk = true ↔ 1 ≤ s.inLen.toNat ∧ s.inLen.toNat ≤ 59 := by
  rw [State.frameLengthOk, Bool.and_eq_true, decide_eq_true_iff, decide_eq_true_iff, Config.inMax]

/-- TX_BUF after ENCODE's store, as the host sees it (R76). -/
theorem peekRange_of_storeFrame (hlen : s.frameLengthOk = true) (htx : t.txBuf = (storeFrame s).txBuf) :
    t.peekRange 0x060 (s.inLen.toNat + 6) = encodeFrame (s.peekRange 0x020 s.inLen.toNat) := by
  obtain ⟨-, hmax⟩ := frameLengthOk_iff.mp hlen
  rw [peekRange_txBuf t (by omega), htx, storeFrame_txBuf, storedFrame_take hmax, inBytes_eq_peekRange (by omega)]

/-- Settles O17: IN_LEN chooses between a store of the frame and no store, and either is reported by its finish. -/
theorem encodeCommand : Obligations.EncodeCommand := by
  refine ⟨rfl, fun s hbusy => hostCommand_of_busy hbusy, ?_⟩
  rintro s n hbusy hidle rfl
  refine ⟨runEncode (beginCommand 0x02#8 s), hostCommand_of_idle hbusy, ?_⟩
  rw [peek_inLen]
  by_cases hlen : s.frameLengthOk = true
  · have hrun : runEncode (beginCommand 0x02#8 s) = finish .ok (storeFrame (beginCommand 0x02#8 s)) := if_pos hlen
    have hrange := frameLengthOk_iff.mp hlen
    obtain ⟨-, -, hn, htx, -⟩ := storeFrame_frame (s := beginCommand 0x02#8 s) hlen
    have hrep := finish_reported .ok hidle (storeFrame_sameBytes (beginCommand 0x02#8 s)) rfl rfl rfl
      ⟨rfl, rfl, rfl, rfl, rfl⟩
    rw [hn] at hrep
    rw [hrun]
    exact ⟨hrep.cmd, hrep.status, hrep.phase, hrep.endPhase,
      fun _ _ => ⟨hrep.code, htx, peekRange_of_storeFrame hlen rfl, hrep.bytes⟩, fun hbad => by omega, hrep.req,
      hrep.sampleDue, hrep.settleCnt, hrep.outside⟩
  · have hrun : runEncode (beginCommand 0x02#8 s) = finish .badLength (beginCommand 0x02#8 s) := if_neg hlen
    have hrep := refused_reported 0x02#8 .badLength hidle
    rw [hrun]
    exact ⟨hrep.cmd, hrep.status, hrep.phase, hrep.endPhase,
      fun hpos hmax => absurd (frameLengthOk_iff.mpr ⟨hpos, hmax⟩) hlen, fun _ => ⟨hrep.code, hrep.bytes⟩, hrep.req,
      hrep.sampleDue, hrep.settleCnt, hrep.outside⟩

/-! ### DECODE -/

/-- PAYLOAD after WriteResp, as the host sees it (R74). -/
theorem peekRange_of_writeResp {r : Response} (h : r.payload.length ≤ 62)
    (hpayload : t.payload = (writeResp r s).payload) : t.peekRange 0x100 r.payload.length = r.payload := by
  rw [peekRange_payload t h, hpayload, writeResp_payload, overlay_take _ _ h]

/-- Settles O18: DECODE always stores its decode, which is as long as it reports, and finishes with OK. The name
keeps clear of the decoder's `Sys2Proof.decodeCommand`. -/
theorem Codec.decodeCommand : Obligations.DecodeCommand := by
  refine ⟨rfl, fun s hbusy => hostCommand_of_busy hbusy, ?_⟩
  rintro s r hbusy hidle hcount rfl
  have hlength := decodeFrame_payload_length s.rxBuf hcount
  have havail := decodeFrame_avail_le s.rxBuf hcount
  have hrep := finish_reported .ok hidle
    (writeResp_sameBytes (decodeFrame s.rxBuf s.rxCount.toNat) (beginCommand 0x03#8 s)) rfl rfl rfl
    ⟨rfl, rfl, rfl, rfl, rfl⟩
  have hpayload := peekRange_of_writeResp (s := beginCommand 0x03#8 s) (t := runDecode (beginCommand 0x03#8 s))
    (hlength.trans_le havail) rfl
  rw [hlength] at hrep hpayload
  exact ⟨runDecode (beginCommand 0x03#8 s), hostCommand_of_idle hbusy, hrep.cmd, hrep.status, hrep.code, hrep.phase,
    hrep.endPhase, respFlags_toNat _, halves9 _, rfl, hpayload, hrep.bytes, hrep.req, hrep.sampleDue, hrep.settleCnt,
    hrep.outside⟩

end Sys2Proof.Machine
end

section
/-! AckMatch (O14, O15) and ACKMATCH (O19): each branch of R78 is said once, and what MATCH = 1 means follows from
them for every count. -/

namespace Sys2Proof.Machine

variable {buf : Vector Byte 7} {c : Nat}

/-! ### The branches of AckMatch -/

theorem ackMatch_zero (buf : Vector Byte 7) : ackMatch buf 0 = ⟨false, false, true⟩ := rfl

theorem ackMatch_long_of_lt (h0 : buf[0] ≠ 0x00#8) (hpos : c ≠ 0) (hc : c < 7) :
    ackMatch buf c = ⟨false, true, true⟩ := by
  simp [ackMatch, ackLong, h0, hpos, hc]

theorem ackMatch_long_of_le (h0 : buf[0] ≠ 0x00#8) (hc : 7 ≤ c) :
    ackMatch buf c = ⟨buf.toList == ackLong, true, false⟩ := by
  have htake : buf.toList.take 7 = buf.toList := List.take_of_length_le buf.length_toList.le
  simp [ackMatch, ackLong, h0, show c ≠ 0 by omega, Nat.not_lt.mpr hc, htake]

/-- With byte 0 = 0x00 no byte and too few bytes give the same result. -/
theorem ackMatch_short_of_lt (h0 : buf[0] = 0x00#8) (hc : c < 6) : ackMatch buf c = ⟨false, false, true⟩ := by
  by_cases hpos : c = 0
  · rw [hpos, ackMatch_zero]
  · simp [ackMatch, ackShort, h0, hpos, hc]

theorem ackMatch_short_of_le (h0 : buf[0] = 0x00#8) (hc : 6 ≤ c) :
    ackMatch buf c = ⟨buf.toList.take 6 == ackShort, false, false⟩ := by
  simp [ackMatch, ackShort, h0, show c ≠ 0 by omega, Nat.not_lt.mpr hc]

/-- Settles O14: byte 0 selects the template, and the count is compared with its length. -/
theorem ackMatchFields : Obligations.AckMatchFields := by
  intro buf c hmax
  refine ⟨fun hc => hc ▸ ackMatch_zero buf, fun hpos h0 => ⟨ackMatch_long_of_lt h0 hpos, fun hc => ?_⟩,
    fun _ h0 => ⟨ackMatch_short_of_lt h0, fun hc => ?_⟩⟩
  · rw [ackMatch_long_of_le h0 hc.ge]
    exact ⟨rfl, rfl, beq_iff_eq⟩
  · rw [ackMatch_short_of_le h0 hc]
    exact ⟨rfl, rfl, beq_iff_eq⟩

/-! ### What a match means -/

theorem getElem_of_ackLong (h : buf.toList = ackLong) (i : Nat) (hi : i < 7) : ackLong[i]? = some buf[i] := by
  simp [← h, hi]

theorem getElem_of_ackShort (h : buf.toList.take 6 = ackShort) (i : Nat) (hi : i < 6) :
    ackShort[i]? = some buf[i] := by
  simp [← h, hi]

/-- The valid bytes hold the whole of a template. Byte 0 need not be named: each template selects itself. -/
theorem ackMatch_matched_iff : (ackMatch buf c).matched = true ↔
    (7 ≤ c ∧ buf.toList = ackLong) ∨ (6 ≤ c ∧ buf.toList.take 6 = ackShort) := by
  by_cases h0 : buf[0] = 0x00#8
  · have hlong : buf.toList ≠ ackLong := fun h => absurd (h0 ▸ getElem_of_ackLong h 0 (by decide)) (by decide)
    obtain hc | hc := Nat.lt_or_ge c 6
    · simp [ackMatch_short_of_lt h0 hc, hlong, Nat.not_le.mpr hc]
    · simp [ackMatch_short_of_le h0 hc, hlong, hc]
  · have hshort : buf.toList.take 6 ≠ ackShort := fun h =>
      h0 (Option.some.inj (getElem_of_ackShort h 0 (by decide))).symm
    obtain hc | hc := Nat.lt_or_ge c 7
    · by_cases hpos : c = 0
      · simp [hpos, ackMatch_zero]
      · simp [ackMatch_long_of_lt h0 hpos hc, hshort, Nat.not_le.mpr hc]
    · simp [ackMatch_long_of_le h0 hc, hshort, hc]

/-! ### One changed byte -/

variable {v : Vector Byte 7} {i : Fin 7} {b : Byte}

/-- The templates differ at bytes 2 and 3, so buffers that agree at one of these do not hold both. -/
theorem not_ackShort_of_ackLong (hkeep : v[2] = buf[2] ∨ v[3] = buf[3]) (hv : v.toList = ackLong) :
    buf.toList.take 6 ≠ ackShort := fun hbuf => by
  obtain h | h := hkeep
  · exact absurd ((getElem_of_ackLong hv 2 (by decide)).trans
      (h ▸ (getElem_of_ackShort hbuf 2 (by decide)).symm)) (by decide)
  · exact absurd ((getElem_of_ackLong hv 3 (by decide)).trans
      (h ▸ (getElem_of_ackShort hbuf 3 (by decide)).symm)) (by decide)

/-- One change leaves byte 2 or byte 3 as it was. -/
theorem set_getElem_two_or_three (v : Vector Byte 7) (i : Fin 7) (b : Byte) :
    (v.set i b)[2] = v[2] ∨ (v.set i b)[3] = v[3] := by
  by_cases hi : i.val = 2
  · exact .inr (Vector.getElem_set_ne _ _ (by omega))
  · exact .inl (Vector.getElem_set_ne _ _ hi)

/-- T_long with one changed byte is neither T_long nor T_short. -/
theorem ackMatch_set_of_ackLong (hv : v.toList = ackLong) (hb : b ≠ v[i]) :
    (ackMatch (v.set i b) c).matched = false := by
  refine Bool.eq_false_iff.mpr fun hmatch => ?_
  obtain ⟨-, h⟩ | ⟨-, h⟩ := ackMatch_matched_iff.mp hmatch
  · have hi := (getElem_of_ackLong h i i.isLt).symm.trans (getElem_of_ackLong hv i i.isLt)
    rw [Vector.getElem_set_self] at hi
    exact hb (Option.some.inj hi)
  · exact not_ackShort_of_ackLong ((set_getElem_two_or_three v i b).imp .symm .symm) hv h

/-- T_short with one of its six bytes changed is neither T_short nor T_long. -/
theorem ackMatch_set_of_ackShort (hv : v.toList.take 6 = ackShort) (hlt : i.val < 6) (hb : b ≠ v[i]) :
    (ackMatch (v.set i b) c).matched = false := by
  refine Bool.eq_false_iff.mpr fun hmatch => ?_
  obtain ⟨-, h⟩ | ⟨-, h⟩ := ackMatch_matched_iff.mp hmatch
  · exact not_ackShort_of_ackLong (set_getElem_two_or_three v i b) h hv
  · have hi := (getElem_of_ackShort h i hlt).symm.trans (getElem_of_ackShort hv i hlt)
    rw [Vector.getElem_set_self] at hi
    exact hb (Option.some.inj hi)

/-- A match has byte 0 of a template (R79). -/
theorem getElem_zero_of_matched (h : (ackMatch buf c).matched = true) : buf[0] = 0x00#8 ∨ buf[0] = 0x01#8 := by
  obtain ⟨-, hbuf⟩ | ⟨-, hbuf⟩ := ackMatch_matched_iff.mp h
  · exact .inr (Option.some.inj (getElem_of_ackLong hbuf 0 (by decide))).symm
  · exact .inl (Option.some.inj (getElem_of_ackShort hbuf 0 (by decide))).symm

/-- Settles O15: the buffers named hold a template, and a changed one holds neither. -/
theorem ackMatchSingleByteChange : Obligations.AckMatchSingleByteChange :=
  ⟨ackMatch_matched_iff.mpr (.inl ⟨le_rfl, rfl⟩),
    fun _ => ⟨ackMatch_matched_iff.mpr (.inr ⟨by decide, rfl⟩), ackMatch_matched_iff.mpr (.inr ⟨le_rfl, rfl⟩)⟩,
    fun _ _ hb => ackMatch_set_of_ackLong rfl hb, fun _ _ _ hlt hb => ackMatch_set_of_ackShort rfl hlt hb,
    fun _ _ h0 h1 => Bool.eq_false_iff.mpr fun h => (getElem_zero_of_matched h).elim h0 h1⟩

/-! ### ACKMATCH -/

theorem setAckResult_sameBytes (a : AckResult) (s : State) : SameBytesExcept [0x009] s (setAckResult a s) :=
  sameBytesExcept_of_regs fun r hr => by
    cases r with
    | ackResult => exact absurd (by decide) hr
    | _ => rfl

/-- Settles O19: ACKMATCH always stores its result, which chooses the code it finishes with. -/
theorem ackmatchCommand : Obligations.AckmatchCommand := by
  refine ⟨rfl, fun s hbusy => hostCommand_of_busy hbusy, ?_⟩
  rintro s a hbusy hidle rfl
  have hrep := finish_reported (if (ackMatch s.ackBuf s.ackCount.toNat).matched then .ok else .invalidAck) hidle
    (setAckResult_sameBytes (ackMatch s.ackBuf s.ackCount.toNat) (beginCommand 0x04#8 s)) rfl rfl rfl
    ⟨rfl, rfl, rfl, rfl, rfl⟩
  exact ⟨runAckmatch (beginCommand 0x04#8 s), hostCommand_of_idle hbusy, hrep.cmd, hrep.status, hrep.phase,
    hrep.endPhase, hrep.code.trans (apply_ite ..), ackResult_toNat _, hrep.bytes, hrep.req, hrep.sampleDue,
    hrep.settleCnt, hrep.outside⟩

end Sys2Proof.Machine
end

section
/-! The sequencer's steps, one equation per turn and phase: the completions of Wake (O22), Send (O23, O36) and Release
(O24), the ticks (O26, O27), and the ticks and samples that change nothing (O28). -/

namespace Sys2Proof.Machine

variable {s : State}

/-! ### The completions of Wake, Send and Release -/

theorem completeWake_of_phase (hp : s.phase = .wake) (hreq : s.req = .wake) :
    completeWake s = .next (enterIssue .send (.send s.txFrame) s) :=
  if_pos ⟨hp, hreq⟩

/-- Settles O22: the frame a Send carries is TX_BUF[0..TX_LEN) as the host sees it. -/
theorem wakeCompletes : Obligations.WakeCompletes := by
  intro s rest hinputs hp hreq hlen
  rw [peekRange_txBuf s hlen]
  exact (step_cons hinputs).trans (completeWake_of_phase (s := { s with inputs := rest }) hp hreq)

theorem sendStep_of_phase {frame : List Byte} (hp : s.phase = .send) (hreq : s.req = .send frame) :
    sendStep s = .next (afterSend s) := by
  have hsend : s.req.isSend = true := by rw [hreq]; rfl
  exact (sendStep_eq s).trans (if_pos ⟨hp, hsend⟩)

theorem peek_ctrl_eq_one : s.peek 0x013#9 = 0x01#8 ↔ s.endTxnEn = true := by
  rw [peek_ctrl]; cases s.endTxnEn <;> decide

theorem peek_ctrl_eq_zero : s.peek 0x013#9 = 0x00#8 ↔ s.endTxnEn = false := by
  rw [peek_ctrl]; cases s.endTxnEn <;> decide

/-- Settles O23: CTRL.END_TXN_EN alone chooses the branch of `afterSend`. -/
theorem sendCompletes : Obligations.SendCompletes := by
  intro s rest frame hinputs hp hreq
  have hstep : step s = .next (afterSend { s with inputs := rest }) :=
    (step_cons hinputs).trans (sendStep_of_phase (s := { s with inputs := rest }) hp hreq)
  refine ⟨fun hctrl => ?_, fun hctrl => ?_⟩
  · rw [hstep, afterSend, if_pos (peek_ctrl_eq_one.mp hctrl)]; rfl
  · rw [hstep, afterSend, if_neg (Bool.eq_false_iff.mp (peek_ctrl_eq_zero.mp hctrl))]; rfl

/-- Settles O36: the completion of Send is the completion of its frame, which is what the carried instruction
means. -/
theorem stepRunsCarriedInstruction : Obligations.StepRunsCarriedInstruction := by
  intro s p rest i hinputs hreq hdec
  calc step s
      _ = sendStep { s with inputs := rest } := step_cons hinputs
      _ = completeSend { s with inputs := rest } := sendStep_eq _
      _ = carryFrame p { s with inputs := rest } :=
        (carryFrame_of_req (s := { s with inputs := rest }) hreq).symm
      _ = exec i { s with inputs := rest } := (exec_of_payload hdec _).symm

theorem completeRelease_of_release1 (hp : s.phase = .release1) (hreq : s.req = .release) :
    completeRelease s = .next (enterWait .wait1 s) :=
  if_pos ⟨hp, hreq⟩

theorem completeRelease_of_release2 (hp : s.phase = .release2) (hreq : s.req = .release) :
    completeRelease s = .next (finish .ok s) := by
  simp [completeRelease, hp, hreq]

/-- Settles O24: the phase chooses between the first wait and the finish. -/
theorem releaseCompletes : Obligations.ReleaseCompletes := by
  intro s rest hinputs hreq
  refine ⟨fun hp => ?_, fun hp => ?_⟩ <;> rw [step_cons hinputs]
  · exact completeRelease_of_release1 (s := { s with inputs := rest }) hp hreq
  · rw [← hp]
    exact completeRelease_of_release2 (s := { s with inputs := rest }) hp hreq

/-! ### Ticks and samples -/

variable {rest : List Input}

theorem step_tick (h : s.inputs = .tick :: rest) : step s = .next (tickStep { s with inputs := rest }) :=
  step_cons h

theorem step_sample {ready : Bool} (h : s.inputs = .sample ready :: rest) :
    step s = .next (sampleStep ready { s with inputs := rest }) :=
  step_cons h

theorem tickStep_of_wait (hw : s.phase.isWait = true) : tickStep s = setSampleDue true s := if_pos hw

theorem tickStep_of_settle (hp : s.phase = .settle) : tickStep s = settleTick s := by
  simp [tickStep, hp, Phase.isWait]

/-- A second tick before the sample changes nothing (R88). -/
theorem setSampleDue_of_due (hdue : s.sampleDue = true) : setSampleDue true s = s := by
  rw [setSampleDue, ← hdue]

/-- A tick outside SETTLE that finds a sample due or no wait changes nothing (R94). -/
theorem tickStep_of_disabled (h : s.sampleDue = true ∨ s.phase.isWait = false) (hp : s.phase ≠ .settle) :
    tickStep s = s := by
  by_cases hw : s.phase.isWait = true
  · rw [tickStep_of_wait hw, setSampleDue_of_due (h.resolve_right fun hf => by simp [hw] at hf)]
  · rw [tickStep, if_neg hw, if_neg hp]

theorem sampleStep_of_enabled (hw : s.phase.isWait = true) (hdue : s.sampleDue = true) (ready : Bool) :
    sampleStep ready s = if ready then sampleReady s else sampleNotReady s := by
  simp [sampleStep, hw, hdue]

/-- A sample that is not due, or outside the wait phases, changes nothing (R94). -/
theorem sampleStep_of_disabled (h : s.sampleDue = false ∨ s.phase.isWait = false) (ready : Bool) :
    sampleStep ready s = s := by
  obtain h | h := h <;> simp [sampleStep, h]

theorem Phase.isWait_eq_false_iff (p : Phase) : p.isWait = false ↔ p ≠ .wait1 ∧ p ≠ .wait2 := by
  cases p <;> decide

/-- Settles O26: a tick of a wait sets SAMPLE_DUE, which is no change where it is set. -/
theorem tickInWait : Obligations.TickInWait := by
  intro s rest hinputs hwait
  have hw := (Phase.isWait_iff s.phase).mpr hwait
  rw [step_tick hinputs, tickStep_of_wait (s := { s with inputs := rest }) hw]
  exact ⟨fun _ => rfl, fun hdue => congrArg _ (setSampleDue_of_due hdue)⟩

/-- SETTLE_CNT below SETTLE_TICKS counts without a wrap (R89). -/
theorem countSettle_toNat (h : s.settleCnt.toNat < s.settleTicks.toNat) :
    (countSettle s).settleCnt.toNat = s.settleCnt.toNat + 1 := by
  have := s.settleTicks.isLt
  simp only [countSettle_settleCnt, BitVec.toNat_add, BitVec.toNat_ofNat]
  omega

theorem settleTick_of_lt (h : s.settleCnt.toNat + 1 < s.settleTicks.toNat) : settleTick s = countSettle s :=
  if_neg (by rw [countSettle_toNat (by omega)]; exact Nat.not_le.mpr h)

theorem settleTick_of_last (h : s.settleCnt.toNat < s.settleTicks.toNat)
    (hlast : s.settleTicks.toNat ≤ s.settleCnt.toNat + 1) : settleTick s = enterReadAck (countSettle s) :=
  if_pos (by rwa [countSettle_toNat h])

/-- Settles O27: the count decides whether a tick of SETTLE is its last. -/
theorem tickInSettle : Obligations.TickInSettle := by
  intro s rest hinputs hp hcnt
  rw [step_tick hinputs, tickStep_of_settle (s := { s with inputs := rest }) hp]
  exact ⟨fun hlt => congrArg _ (settleTick_of_lt (s := { s with inputs := rest }) hlt),
    fun hle => congrArg _ (settleTick_of_last (s := { s with inputs := rest }) hcnt hle)⟩

/-- Settles O28: a tick outside SETTLE finds a sample due or no wait, and a sample finds none due or no wait. -/
theorem otherEventsChangeNothing : Obligations.OtherEventsChangeNothing := by
  intro s rest
  refine ⟨fun hinputs hdue hsettle => ?_, fun ready hinputs hdue => ?_⟩
  · rw [step_tick hinputs, tickStep_of_disabled (s := { s with inputs := rest })
      (hdue.imp_right (Phase.isWait_eq_false_iff _).mpr) hsettle]
  · rw [step_sample hinputs, sampleStep_of_disabled (s := { s with inputs := rest })
      (hdue.imp_right (Phase.isWait_eq_false_iff _).mpr)]

end Sys2Proof.Machine
end

section
/-! The waits: the sample step (O25), what any step does to a wait (O49), and the schedule on which a wait never sees
ready (O47). -/

namespace Sys2Proof.Machine

variable {s t : State}

/-! ### The sample step -/

/-- A wait below its limit counts a sample without a wrap (R87). -/
theorem countSample_toNat_of_lt (h : s.pollCount.toNat < s.waitLimit) :
    (countSample s).pollCount.toNat = s.pollCount.toNat + 1 := by
  have := s.pollLimit.isLt
  simp only [State.waitLimit] at h
  simp only [countSample_pollCount, BitVec.toNat_add, BitVec.toNat_ofNat]
  omega

/-- What a sample due leaves of a wait that has taken fewer samples than its limit, by the level drawn (R87). -/
inductive SampleEffect (s : State) : Bool → State → Prop
  /-- WAIT1 sees ready and SETTLE has ticks to count (R89). -/
  | settle (hp : s.phase = .wait1) (ht : s.settleTicks ≠ 0#8) :
      SampleEffect s true (startSettle (takeSample s))
  /-- WAIT1 sees ready and SETTLE_TICKS = 0 (R89). -/
  | readAck (hp : s.phase = .wait1) (ht : s.settleTicks = 0#8) :
      SampleEffect s true (enterReadAck (startSettle (takeSample s)))
  /-- WAIT2 sees ready. -/
  | readResp (hp : s.phase = .wait2) : SampleEffect s true (enterIssue .readResp .recv64 (takeSample s))
  /-- Not ready below the limit. -/
  | goOn (hlim : s.pollCount.toNat + 1 < s.waitLimit) : SampleEffect s false (takeSample s)
  /-- Not ready at the limit. -/
  | timeOut (hlim : s.waitLimit ≤ s.pollCount.toNat + 1) : SampleEffect s false (finish .timeout (countSample s))

theorem sampleReady_eq (s : State) : sampleReady s =
    if s.phase = .wait1 then enterSettle (takeSample s) else enterIssue .readResp .recv64 (takeSample s) := rfl

theorem sampleNotReady_eq (s : State) : sampleNotReady s =
    if s.waitLimit ≤ (countSample s).pollCount.toNat then finish .timeout (countSample s) else takeSample s := rfl

theorem sampleStep_false_of_lt (hw : s.phase.isWait = true) (hdue : s.sampleDue = true)
    (hlt : s.pollCount.toNat + 1 < s.waitLimit) : sampleStep false s = takeSample s := by
  rw [sampleStep_of_enabled hw hdue, if_neg Bool.false_ne_true, sampleNotReady_eq,
    countSample_toNat_of_lt (by omega), if_neg (Nat.not_le.mpr hlt)]

theorem sampleStep_false_of_last (hw : s.phase.isWait = true) (hdue : s.sampleDue = true)
    (hlast : s.pollCount.toNat + 1 = s.waitLimit) : sampleStep false s = finish .timeout (countSample s) := by
  rw [sampleStep_of_enabled hw hdue, if_neg Bool.false_ne_true, sampleNotReady_eq,
    countSample_toNat_of_lt (by omega), if_pos hlast.ge]

theorem sampleStep_sampleEffect (hw : s.phase.isWait = true) (hdue : s.sampleDue = true)
    (hlt : s.pollCount.toNat < s.waitLimit) (ready : Bool) : SampleEffect s ready (sampleStep ready s) := by
  cases ready with
  | true =>
    rw [sampleStep_of_enabled hw hdue, if_pos rfl, sampleReady_eq]
    split_ifs with hp
    · obtain ⟨ht, heq⟩ | ⟨ht, heq⟩ := enterSettle_cases (takeSample s) <;> rw [heq]
      · exact .readAck hp ht
      · exact .settle hp ht
    · exact .readResp (((Phase.isWait_iff _).mp hw).resolve_left hp)
  | false =>
    obtain hlast | hbelow := (Nat.succ_le_of_lt hlt).eq_or_lt
    · rw [sampleStep_false_of_last hw hdue hlast]
      exact .timeOut hlast.ge
    · rw [sampleStep_false_of_lt hw hdue hbelow]
      exact .goOn hbelow

variable {ready : Bool}

theorem SampleEffect.pollCount_eq (h : SampleEffect s ready t) : t.pollCount = (countSample s).pollCount := by
  cases h <;> simp [takeSample, enterReadAck]

/-- What a sample leaves alone, and that it is no longer due. -/
theorem SampleEffect.frame (h : SampleEffect s ready t) : t.inputs = s.inputs ∧ t.sampleDue = false ∧
    t.pollLimit = s.pollLimit ∧ t.rej = s.rej ∧ t.rdData = s.rdData ∧ t.draws = s.draws ∧ t.epoch = s.epoch ∧
    t.params = s.params := by
  cases h <;> simp [takeSample, enterReadAck]

theorem enterIssue_sameBytes (p : Phase) (r : Req) (s : State) : SameBytesExcept [0x003] s (enterIssue p r s) :=
  sameBytesExcept_of_regs fun reg hreg => by
    cases reg with
    | phase => exact absurd (by decide) hreg
    | _ => rfl

theorem startSettle_sameBytes (s : State) : SameBytesExcept [0x003] s (startSettle s) :=
  sameBytesExcept_of_regs fun reg hreg => by
    cases reg with
    | phase => exact absurd (by decide) hreg
    | _ => rfl

theorem countSample_sameBytes (s : State) : SameBytesExcept [0x014, 0x015] s (countSample s) :=
  sameBytesExcept_of_regs fun reg hreg => by
    cases reg with
    | pollCountLo | pollCountHi => exact absurd (by decide) hreg
    | _ => rfl

theorem takeSample_sameBytes (s : State) : SameBytesExcept [0x014, 0x015] s (takeSample s) :=
  countSample_sameBytes s

theorem SampleEffect.sameBytes (h : SampleEffect s ready t) :
    SameBytesExcept [0x001, 0x002, 0x003, 0x004, 0x014, 0x015] s t := by
  have htake := takeSample_sameBytes s
  have hsettle := htake.trans (startSettle_sameBytes (takeSample s))
  cases h with
  | settle => exact hsettle.mono (by decide)
  | readAck => exact (hsettle.trans (enterIssue_sameBytes .readAck .recv7 _)).mono (by decide)
  | readResp => exact (htake.trans (enterIssue_sameBytes .readResp .recv64 _)).mono (by decide)
  | goOn => exact htake.mono (by decide)
  | timeOut => exact ((countSample_sameBytes s).trans (finish_sameBytes .timeout (countSample s))).mono (by decide)

/-- Where a wait that sees ready goes (R87, R89). -/
theorem SampleEffect.of_ready (h : SampleEffect s true t) :
    t.busy = s.busy ∧ t.code = s.code ∧ t.endPhase = s.endPhase ∧ t.done = s.done ∧
    (s.phase = .wait1 → s.settleTicks ≠ 0#8 → t.phase = .settle ∧ t.req = s.req ∧ t.settleCnt = 0#8) ∧
    (s.phase = .wait1 → s.settleTicks = 0#8 → t.phase = .readAck ∧ t.req = .recv7 ∧ t.settleCnt = 0#8) ∧
    (s.phase = .wait2 → t.phase = .readResp ∧ t.req = .recv64 ∧ t.settleCnt = s.settleCnt) := by
  cases h with
  | settle hp ht => simp [hp, ht, takeSample]
  | readAck hp ht => simp [hp, ht, takeSample, enterReadAck]
  | readResp hp => simp [hp, takeSample]

/-- Settles O25: each branch of `SampleEffect` is one clause of the statement, and excludes the others. The name keeps
clear of the model's `sampleStep`. -/
theorem Sequencer.sampleStep : Obligations.SampleStep := by
  intro s rest ready hinputs hwait hdue hlt
  have heff := sampleStep_sampleEffect (s := { s with inputs := rest }) ((Phase.isWait_iff _).mpr hwait) hdue hlt ready
  rw [step_sample hinputs]
  generalize Machine.sampleStep ready { s with inputs := rest } = t at heff ⊢
  have hcount : t.pollCount.toNat = s.pollCount.toNat + 1 :=
    (congrArg _ heff.pollCount_eq).trans (countSample_toNat_of_lt (s := { s with inputs := rest }) hlt)
  obtain ⟨hin, hdue', -, hframe⟩ := heff.frame
  refine ⟨t, rfl, hin, hcount, hdue', ?_, ?_, ?_, .of_withInputs heff.sameBytes, hframe⟩
  · rintro rfl
    exact heff.of_ready
  · rintro rfl hbelow
    cases heff with
    | goOn => exact ⟨rfl, rfl, rfl, rfl, rfl, rfl, rfl⟩
    | timeOut hlim => exact absurd hbelow (Nat.not_lt.mpr hlim)
  · rintro rfl hat
    cases heff with
    | goOn hlim => exact absurd hat (Nat.not_le.mpr hlim)
    | timeOut => exact ⟨rfl, rfl, rfl, rfl, rfl, rfl, rfl⟩

/-! ### Every step of a wait -/

/-- The step changed nothing but REJ, the byte the host got, the draws made and the agents' turns. -/
def OnlyHostSees (s t : State) : Prop :=
  ∃ rej rdData draws inputs, t = { s with rej := rej, rdData := rdData, draws := draws, inputs := inputs }

/-- While BUSY = 1 no bus word changes more (R18, R57). -/
theorem BusEffect.onlyHostSees {w : BusWord} (h : BusEffect w s t) (hbusy : s.busy = true) : OnlyHostSees s t := by
  cases h with
  | stored _ _ _ hidle | command _ _ hidle => exact absurd hbusy (Bool.eq_false_iff.mp hidle)
  | _ => exact ⟨_, _, _, _, rfl⟩

/-- What a step that takes no sample leaves of a wait. -/
structure WaitGoesOn (s t : State) : Prop where
  pollCount : t.pollCount = s.pollCount
  phase : t.phase = s.phase
  busy : t.busy = s.busy
  code : t.code = s.code
  pollLimit : t.pollLimit = s.pollLimit

theorem WaitGoesOn.refl (s : State) : WaitGoesOn s s := ⟨rfl, rfl, rfl, rfl, rfl⟩

/-- In a wait every turn but a sample due and reset leaves the wait as it is: no request is outstanding to
complete. -/
theorem inputStep_waitGoesOn {e : Input} (hw : s.phase.isWait = true) (hbusy : s.busy = true)
    (hsample : ∀ ready, e = .sample ready → s.sampleDue = false) (hreset : e ≠ .reset)
    (h : inputStep e s = .next t) : WaitGoesOn s t := by
  have hother {p : Phase} (hne : p.isWait = false) : s.phase ≠ p := by
    rintro rfl
    simp [hw] at hne
  cases e with
  | bus w =>
    obtain ⟨_, _, _, _, rfl⟩ := (busStep_effect h).onlyHostSees hbusy
    exact ⟨rfl, rfl, rfl, rfl, rfl⟩
  | waitIdle => obtain rfl | rfl := waitIdleStep_next h <;> exact ⟨rfl, rfl, rfl, rfl, rfl⟩
  | sample ready =>
    cases h
    rw [sampleStep_of_disabled (.inl (hsample ready rfl))]
    exact .refl s
  | tick =>
    cases h
    rw [tickStep_of_wait hw]
    exact ⟨rfl, rfl, rfl, rfl, rfl⟩
  | doneWake => exact absurd (completeWake_next h).1 (hother rfl)
  | doneSend => exact absurd (completeSend_next ((sendStep_eq s).symm.trans h)).1 (hother rfl)
  | doneRelease =>
    obtain ⟨hp, -⟩ | ⟨hp, -⟩ := completeRelease_next h <;> exact absurd hp (hother rfl)
  | doneRecv d =>
    obtain ⟨hp, -⟩ | ⟨hp, -⟩ := completeRecv_next h <;> exact absurd hp (hother rfl)
  | reset => exact absurd rfl hreset

/-- A whole step that takes no sample due and is not reset lets the wait go on. -/
theorem step_waitGoesOn (hw : s.phase.isWait = true) (hbusy : s.busy = true)
    (hsample : ∀ ready rest, s.inputs = .sample ready :: rest → s.sampleDue = false)
    (hreset : s.inputs.head? ≠ some .reset) (h : step s = .next t) : WaitGoesOn s t := by
  obtain ⟨-, rfl⟩ | ⟨e, rest, hin, hinput⟩ := step_next h
  · exact .refl t
  · have hgo := inputStep_waitGoesOn (s := { s with inputs := rest }) hw hbusy
      (fun ready he => hsample ready rest (he ▸ hin)) (fun he => hreset (by rw [hin, he]; rfl)) hinput
    exact { hgo with }

/-- A sample due is counted, and is the last one where it draws 0 at the limit (R87). -/
theorem SampleEffect.counted (h : SampleEffect s ready t) (hbusy : s.busy = true)
    (hlt : s.pollCount.toNat < s.waitLimit) :
    t.pollCount.toNat = s.pollCount.toNat + 1 ∧
    (ready = true → t.busy = true ∧ t.phase ≠ s.phase) ∧
    (ready = false → t.pollCount.toNat < s.waitLimit → t.busy = true ∧ t.phase = s.phase) ∧
    (ready = false → ¬ t.pollCount.toNat < s.waitLimit →
      t.pollCount.toNat = s.waitLimit ∧ t.busy = false ∧ t.code = .timeout ∧ t.endPhase = s.phase) := by
  have hcount : t.pollCount.toNat = s.pollCount.toNat + 1 :=
    (congrArg _ h.pollCount_eq).trans (countSample_toNat_of_lt hlt)
  rw [hcount]
  cases h with
  | settle hp | readAck hp | readResp hp => simp [hp, hbusy, takeSample, enterReadAck]
  | goOn hlim => exact ⟨rfl, nofun, fun _ _ => ⟨hbusy, rfl⟩, fun _ h => absurd hlim h⟩
  | timeOut hlim =>
    exact ⟨rfl, nofun, fun _ h => absurd h (Nat.not_lt.mpr hlim), fun _ _ => ⟨by omega, rfl, rfl, rfl⟩⟩

/-- Settles O49: a sample due is counted (`SampleEffect.counted`), and any other step lets the wait go on
(`step_waitGoesOn`). -/
theorem waitCountsItsSamples : Obligations.WaitCountsItsSamples := by
  intro s t hinv hwait hstep hreset
  have hw := (Phase.isWait_iff s.phase).mpr hwait
  have hlt := hinv.wait_poll hw
  have hbusy := (hinv.inFlight_of_wait hw).busy
  have hsampled {ready : Bool} {rest : List Input} (hin : s.inputs = .sample ready :: rest)
      (hdue : s.sampleDue = true) : SampleEffect { s with inputs := rest } ready t := by
    cases (step_sample hin).symm.trans hstep
    exact sampleStep_sampleEffect (s := { s with inputs := rest }) hw hdue hlt ready
  have hother (hsample : ∀ ready rest, s.inputs = .sample ready :: rest → s.sampleDue = false) :=
    step_waitGoesOn hw hbusy hsample hreset hstep
  refine ⟨fun ready rest hin hdue => (hsampled hin hdue).counted hbusy hlt, fun hsample => ?_, ?_⟩
  · have hgo := hother hsample
    exact ⟨hgo.pollCount, hgo.phase, hgo.busy.trans hbusy, hgo.code⟩
  · by_cases hsample : ∀ ready rest, s.inputs = .sample ready :: rest → s.sampleDue = false
    · exact (hother hsample).pollLimit
    · push Not at hsample
      obtain ⟨ready, rest, hin, hdue⟩ := hsample
      obtain ⟨-, -, hlimit, -⟩ := (hsampled hin (Bool.eq_true_of_not_eq_false hdue)).frame
      exact hlimit

/-! ### A wait that never sees ready -/

theorem runSteps_succ (h : step s = .next t) (k : Nat) : runSteps (k + 1) s = runSteps k t := by
  simp only [runSteps, h]

/-- A sample that draws 0 below the limit and the tick after it make the next sample due (R87, R88). -/
theorem runSteps_sample_tick {l : List Input} (hw : s.phase.isWait = true) (hdue : s.sampleDue = true)
    (hlt : s.pollCount.toNat + 1 < s.waitLimit) (hinputs : s.inputs = .sample false :: .tick :: l) (k : Nat) :
    runSteps (k + 2) s = runSteps k { s with inputs := l, pollCount := s.pollCount + 1#16, sampleDue := true } := by
  have hsample : step s = .next { s with
      inputs := .tick :: l, pollCount := s.pollCount + 1#16, sampleDue := false } :=
    (step_sample hinputs).trans (congrArg _ (sampleStep_false_of_lt (s := { s with inputs := .tick :: l }) hw hdue hlt))
  have htick := (tickInWait { s with inputs := .tick :: l, pollCount := s.pollCount + 1#16, sampleDue := false } l rfl
    ((Phase.isWait_iff _).mp hw)).1 rfl
  rw [runSteps_succ hsample, runSteps_succ htick]

/-- From a sample due with n + 1 samples left, the schedule of O47 takes them all and times out. -/
theorem runSteps_failedWait {rest : List Input} (n : Nat) (s : State) (hw : s.phase.isWait = true)
    (hdue : s.sampleDue = true) (hcount : s.pollCount.toNat + (n + 1) = s.waitLimit)
    (hinputs : s.inputs = failedWait (n + 1) ++ rest) :
    runSteps (2 * n + 1) s = .next { s with
      inputs := rest, pollCount := s.pollCount + BitVec.ofNat 16 (n + 1), code := .timeout, endPhase := s.phase,
      phase := .idle, busy := false, done := true, req := .none, sampleDue := false, settleCnt := 0#8 } := by
  induction n generalizing s with
  | zero =>
    have hstep := step_sample (rest := rest) hinputs
    rw [sampleStep_false_of_last (s := { s with inputs := rest }) hw hdue hcount] at hstep
    exact runSteps_succ hstep 0
  | succ n ih =>
    have hnext : (s.pollCount + 1#16).toNat = s.pollCount.toNat + 1 := countSample_toNat_of_lt (by omega)
    have hsum : s.pollCount + 1#16 + BitVec.ofNat 16 (n + 1) = s.pollCount + BitVec.ofNat 16 (n + 1 + 1) := by
      rw [BitVec.add_assoc, ← BitVec.ofNat_add, Nat.add_comm 1]
    rw [← hsum, show 2 * (n + 1) + 1 = 2 * n + 1 + 2 by omega, runSteps_sample_tick hw hdue (by omega) hinputs]
    exact ih { s with inputs := _, pollCount := s.pollCount + 1#16, sampleDue := true } hw rfl
      (show (s.pollCount + 1#16).toNat + _ = s.waitLimit by omega) rfl

/-- Settles O47: at the start of a wait all of its samples are left. -/
theorem waitTimesOut : Obligations.WaitTimesOut := by
  intro s rest L hL hwait hdue hcount hinputs
  obtain ⟨n, rfl⟩ : ∃ n, L = n + 1 := Nat.exists_eq_add_one.mpr (by omega)
  have hrun := runSteps_failedWait n s ((Phase.isWait_iff _).mpr hwait) hdue
    (by rw [hcount, BitVec.toNat_zero, Nat.zero_add]; exact hL) hinputs
  rw [hcount, BitVec.zero_add] at hrun
  exact hrun

end Sys2Proof.Machine
end

section
/-! The bytes an exchange writes: its acceptance (O20), and the completions of Recv(7) (O29) and Recv(64) (O30). -/

namespace Sys2Proof.Machine

variable {s t : State}

/-! ### EXCHANGE -/

theorem clearResults_sameBytes (s : State) :
    SameBytesExcept [0x008, 0x009, 0x00A, 0x00B, 0x00C, 0x00D, 0x00E, 0x014, 0x015] s (clearResults s) :=
  sameBytesExcept_of_regs fun r hr => by
    cases r with
    | ackCount | ackResult | rxCount | respFlags | respLenLo | respLenHi | respAvail | pollCountLo | pollCountHi =>
      exact absurd (by decide) hr
    | _ => rfl

theorem setBusy_sameBytes (s : State) : SameBytesExcept [0x001] s (setBusy s) :=
  sameBytesExcept_of_regs fun r hr => by
    cases r with
    | status => exact absurd (by decide) hr
    | _ => rfl

/-- What follows the stored frame in the acceptance of EXCHANGE (R82). -/
def startExchange (s : State) : State := enterIssue .wake .wake (setBusy (clearResults s))

theorem runExchange_of_frameLengthOk (h : s.frameLengthOk = true) : runExchange s = startExchange (storeFrame s) :=
  if_pos h

theorem startExchange_sameBytes (s : State) : SameBytesExcept [0x001, 0x003, 0x008, 0x009, 0x00A, 0x00B, 0x00C,
    0x00D, 0x00E, 0x014, 0x015] s (startExchange s) :=
  (((clearResults_sameBytes s).trans (setBusy_sameBytes _)).trans (enterIssue_sameBytes .wake .wake _)).mono
    (by decide)

theorem startExchange_status (hdone : s.done = false) (hrej : s.rej = false) :
    (startExchange s).peek 0x001#9 = 0x01#8 := by
  simp [startExchange, State.statusByte, flagBit, hdone, hrej]

theorem startExchange_results (s : State) :
    (startExchange s).peekRange 0x008 7 = List.replicate 7 0x00#8 := by
  simp [startExchange, State.peekRange, List.range_succ, AckResult.toByte, RespFlags.toByte, AckResult.clear,
    RespFlags.clear, flagBit, List.replicate]

theorem startExchange_pollCount (s : State) : (startExchange s).peekRange 0x014 2 = [0x00#8, 0x00#8] := by
  simp [startExchange, State.peekRange, List.range_succ]

/-- Settles O20: IN_LEN chooses between the stored frame with Wake issued and a finish with BAD_LENGTH. -/
theorem exchangeCommand : Obligations.ExchangeCommand := by
  refine ⟨rfl, fun s hbusy => hostCommand_of_busy hbusy, ?_⟩
  rintro s n hbusy hidle rfl
  refine ⟨runExchange (beginCommand 0x05#8 s), hostCommand_of_idle hbusy, ?_⟩
  rw [peek_inLen]
  by_cases hlen : s.frameLengthOk = true
  · have hrange := frameLengthOk_iff.mp hlen
    obtain ⟨-, -, hn, htx, -⟩ := storeFrame_frame (s := beginCommand 0x05#8 s) hlen
    have hbytes := ((beginCommand_sameBytes 0x05#8 s).trans (storeFrame_sameBytes _)).trans (startExchange_sameBytes _)
    rw [hn, beginCommand_inLen] at hbytes
    rw [runExchange_of_frameLengthOk (s := beginCommand 0x05#8 s) hlen]
    exact ⟨rfl, ⟨rfl, rfl, rfl, rfl, rfl⟩, fun _ _ => ⟨startExchange_status rfl rfl, rfl, rfl, htx,
      peekRange_of_storeFrame hlen rfl, startExchange_results _, startExchange_pollCount _, rfl, rfl, rfl,
      hbytes.mono (by grind)⟩, fun hbad => by omega⟩
  · have hrun : runExchange (beginCommand 0x05#8 s) = finish .badLength (beginCommand 0x05#8 s) := if_neg hlen
    have hrep := refused_reported 0x05#8 .badLength hidle
    rw [hrun]
    exact ⟨hrep.cmd, hrep.outside, fun hpos hmax => absurd (frameLengthOk_iff.mpr ⟨hpos, hmax⟩) hlen,
      fun _ => ⟨hrep.status, hrep.code, hrep.phase, hrep.endPhase, hrep.req, hrep.sampleDue, hrep.settleCnt,
        hrep.bytes⟩⟩

/-! ### The completion of Recv(7) -/

theorem storeAck_sameBytes (d : List Byte) (s : State) :
    SameBytesExcept (0x008 :: addrRange 0x0A8 d.length) s (storeAck d s) :=
  sameBytesExcept_of_regs fun r hr => by
    cases r with
    | ackCount => exact absurd List.mem_cons_self hr
    | ackBuf i =>
      have hi : d.length ≤ i.val := le_of_not_mem_addrRange (List.not_mem_of_not_mem_cons hr)
      exact overlay_getElem_of_le s.ackBuf _ i.val i.isLt hi
    | _ => rfl

theorem enterWait_sameBytes (p : Phase) (s : State) : SameBytesExcept [0x003, 0x014, 0x015] s (enterWait p s) :=
  sameBytesExcept_of_regs fun r hr => by
    cases r with
    | phase | pollCountLo | pollCountHi => exact absurd (by decide) hr
    | _ => rfl

variable {d : List Byte}

/-- The count of a transfer fits its register (R27, R29). -/
theorem ofNat8_toNat {n : Nat} (h : n ≤ 64) : (BitVec.ofNat 8 n).toNat = n := by
  rw [BitVec.toNat_ofNat]
  omega

/-- READ_ACK's result is the match of the received bytes over what ACK_BUF held (R90). -/
theorem matchAck_storeAck (hd : d.length ≤ 7) :
    matchAck (storeAck d s) = setAckResult (ackMatch (overlay s.ackBuf d) d.length) (storeAck d s) := by
  rw [matchAck, storeAck_ackBuf, storeAck_ackCount, ofNat8_toNat (by omega)]

theorem completeRecv_of_readAck (hp : s.phase = .readAck) (hreq : s.req = .recv7) (hd : d.length ≤ 7) :
    completeRecv d s = .next (afterRecvAck d s) := by
  rw [completeRecv, if_pos ⟨hp, hreq⟩]
  exact if_pos hd

theorem completeRecv_of_readResp (hp : s.phase = .readResp) (hreq : s.req = .recv64) (hd : d.length ≤ 64) :
    completeRecv d s = .next (afterRecvResp d s) := by
  rw [completeRecv, if_neg (by simp [hp]), if_pos ⟨hp, hreq⟩]
  exact if_pos hd

/-- ACK_BUF with the received bytes, as the host sees it. -/
theorem peekRange_of_ackBuf {v : Vector Byte 7} (hd : d.length ≤ 7) (h : t.ackBuf = overlay v d) :
    t.peekRange 0x0A8 d.length = d := by
  rw [peekRange_ackBuf t hd, h, overlay_take v d hd]

/-- Settles O29: the match of the received bytes chooses between the second wait and INVALID_ACK. -/
theorem recvAckCompletes : Obligations.RecvAckCompletes := by
  rintro s rest d a hinputs hp hreq hd rfl
  have hstep : step s = .next (afterRecvAck d { s with inputs := rest }) :=
    (step_cons hinputs).trans (completeRecv_of_readAck (s := { s with inputs := rest }) hp hreq hd)
  have hcount : (storeAck d s).ackCount.toNat = d.length := ofNat8_toNat (by omega)
  have hstored : SameBytesExcept (0x008 :: addrRange 0x0A8 d.length ++ [0x009]) s
      (matchAck (storeAck d { s with inputs := rest })) :=
    .of_withInputs ((storeAck_sameBytes d { s with inputs := rest }).trans (setAckResult_sameBytes _ _))
  have hresult : (matchAck (storeAck d { s with inputs := rest })).ackResult =
      ackMatch (overlay s.ackBuf d) d.length := by rw [matchAck_storeAck hd]; rfl
  cases hm : (ackMatch (overlay s.ackBuf d) d.length).matched with
  | true =>
    have hafter : afterRecvAck d { s with inputs := rest } =
        enterWait .wait2 (matchAck (storeAck d { s with inputs := rest })) := if_pos (hresult.symm ▸ hm)
    exact ⟨_, hstep.trans (congrArg _ hafter), rfl, peekRange_of_ackBuf hd rfl, hcount, hresult,
      fun _ => ⟨rfl, rfl, rfl, rfl, rfl, rfl, rfl, rfl, rfl⟩, nofun,
      (hstored.trans (enterWait_sameBytes _ _)).mono (by grind), rfl, rfl, rfl, rfl, rfl⟩
  | false =>
    have hafter : afterRecvAck d { s with inputs := rest } =
        finish .invalidAck (matchAck (storeAck d { s with inputs := rest })) :=
      if_neg (Bool.eq_false_iff.mp (hresult.symm ▸ hm))
    exact ⟨_, hstep.trans (congrArg _ hafter), rfl, peekRange_of_ackBuf hd rfl, hcount, hresult, nofun,
      fun _ => ⟨rfl, rfl, rfl, rfl, rfl, rfl, rfl, rfl, hp⟩,
      (hstored.trans (finish_sameBytes _ _)).mono (by grind), rfl, rfl, rfl, rfl, rfl⟩

/-! ### The completion of Recv(64) -/

theorem storeRx_sameBytes (d : List Byte) (s : State) :
    SameBytesExcept (0x00A :: addrRange 0x0B0 d.length) s (storeRx d s) :=
  sameBytesExcept_of_regs fun r hr => by
    cases r with
    | rxCount => exact absurd List.mem_cons_self hr
    | rxBuf i =>
      have hi : d.length ≤ i.val := le_of_not_mem_addrRange (List.not_mem_of_not_mem_cons hr)
      exact overlay_getElem_of_le s.rxBuf _ i.val i.isLt hi
    | _ => rfl

/-- READ_RESP's decode is that of the received bytes over what RX_BUF held (R91). -/
theorem storeResp_eq (hd : d.length ≤ 64) :
    storeResp d s = writeResp (decodeFrame (overlay s.rxBuf d) d.length) (storeRx d s) := by
  rw [storeResp, storeRx_rxBuf, storeRx_rxCount, ofNat8_toNat hd]

/-- RX_BUF with the received bytes, as the host sees it. -/
theorem peekRange_of_rxBuf {v : Vector Byte 64} (hd : d.length ≤ 64) (h : t.rxBuf = overlay v d) :
    t.peekRange 0x0B0 d.length = d := by
  rw [peekRange_rxBuf t hd, h, overlay_take v d hd]

theorem afterRecvResp_eq (d : List Byte) (s : State) : afterRecvResp d s =
    if s.endTxnEn then enterIssue .release2 .release (storeResp d s) else finish .ok (storeResp d s) := rfl

/-- Settles O30: CTRL.END_TXN_EN chooses between RELEASE2 and OK, whatever the decode gives. -/
theorem recvRespCompletes : Obligations.RecvRespCompletes := by
  rintro s rest d r hinputs hp hreq hd rfl
  have hstep : step s = .next (afterRecvResp d { s with inputs := rest }) :=
    (step_cons hinputs).trans (completeRecv_of_readResp (s := { s with inputs := rest }) hp hreq hd)
  rw [afterRecvResp_eq, storeResp_eq hd] at hstep
  have hcount : (storeRx d s).rxCount.toNat = d.length := ofNat8_toNat hd
  have hlength := decodeFrame_payload_length (overlay s.rxBuf d) hd
  have hpayload {t : State} (h : t.payload = overlay s.payload (decodeFrame (overlay s.rxBuf d) d.length).payload) :=
    peekRange_of_writeResp (s := s) (hlength.trans_le (decodeFrame_avail_le (overlay s.rxBuf d) hd)) h
  have hstored := SameBytesExcept.of_withInputs ((storeRx_sameBytes d { s with inputs := rest }).trans
    (writeResp_sameBytes (decodeFrame (overlay s.rxBuf d) d.length) _))
  rw [hlength] at hpayload hstored
  cases hen : s.endTxnEn with
  | true =>
    exact ⟨_, hstep.trans (congrArg _ (if_pos hen)), rfl, peekRange_of_rxBuf hd rfl, hcount, rfl, rfl, rfl,
      hpayload rfl, fun _ => ⟨rfl, rfl, rfl, rfl, rfl, rfl, rfl, rfl⟩, nofun,
      (hstored.trans (enterIssue_sameBytes _ _ _)).mono (by grind), rfl, rfl, rfl, rfl, rfl⟩
  | false =>
    exact ⟨_, hstep.trans (congrArg _ (if_neg (Bool.eq_false_iff.mp hen))), rfl, peekRange_of_rxBuf hd rfl, hcount,
      rfl, rfl, rfl, hpayload rfl, nofun, fun _ => ⟨rfl, rfl, rfl, rfl, rfl, rfl, rfl, hp⟩,
      (hstored.trans (finish_sameBytes _ _)).mono (by grind), rfl, rfl, rfl, rfl, rfl⟩

end Sys2Proof.Machine
end

section
/-! An exchange in flight: how it ends (O44), which phase follows which (O45), and how many ticks it counts (O48). Each
is said of every `ChannelEffect`, and of a whole step by `step_of_busy`. -/

namespace Sys2Proof.Machine

variable {s t : State}

/-! ### A step while an exchange is in flight -/

/-- While BUSY = 1 a step is seen by the host alone, is one of the sequencer's, or is reset. -/
theorem step_of_busy (hbusy : s.busy = true) (h : step s = .next t) :
    OnlyHostSees s t ∨ (∃ rest, ChannelEffect { s with inputs := rest } t) ∨
      (∃ rest, s.inputs = .reset :: rest ∧ t = resetNow { s with inputs := rest }) := by
  obtain ⟨-, rfl⟩ | ⟨e, rest, hin, hinput⟩ := step_next h
  · exact .inl ⟨_, _, _, _, rfl⟩
  · cases inputStep_effect hinput with
    | bus hbus =>
      obtain ⟨_, _, _, _, rfl⟩ := hbus.onlyHostSees hbusy
      exact .inl ⟨_, _, _, _, rfl⟩
    | idleSeen | stillBusy => exact .inl ⟨_, _, _, _, rfl⟩
    | channel hch => exact .inr (.inl ⟨rest, hch⟩)
    | reset => exact .inr (.inr ⟨rest, hin, rfl⟩)

/-! ### How an exchange ends -/

/-- The sequencer's finishes, each with the phase it ends (R97). -/
theorem ChannelEffect.outcome (h : ChannelEffect s t) (hinv : s.Inv) (hbusy : s.busy = true) (hend : t.busy = false) :
    t.done = true ∧ t.endPhase = s.phase ∧ exchangeOutcome s.endTxnEn t.code t.endPhase := by
  cases h with
  | released hp => exact ⟨rfl, rfl, .inr (.inr (.inr (.inr ⟨rfl, hp, hinv.release_en (.inr hp)⟩)))⟩
  | timedOut hp =>
    obtain hp | hp := (Phase.isWait_iff _).mp hp
    · exact ⟨rfl, rfl, .inl ⟨rfl, hp⟩⟩
    · exact ⟨rfl, rfl, .inr (.inr (.inl ⟨rfl, hp⟩))⟩
  | notAcked d hp => exact ⟨rfl, rfl, .inr (.inl ⟨rfl, hp⟩)⟩
  | answered d hp hd hen => exact ⟨rfl, rfl, .inr (.inr (.inr (.inl ⟨rfl, hp, hen⟩)))⟩
  | _ => simp [enterReadAck, takeSample, storeResp, matchAck, hbusy] at hend

/-- Settles O44: only the sequencer's finishes clear BUSY (`ChannelEffect.outcome`). -/
theorem exchangeOutcomes : Obligations.ExchangeOutcomes := by
  intro s t hinv hbusy hstep hend hreset
  obtain ⟨_, _, _, _, rfl⟩ | ⟨rest, hch⟩ | ⟨rest, hin, -⟩ := step_of_busy hbusy hstep
  · exact absurd (hbusy.symm.trans hend) nofun
  · exact hch.outcome { hinv with } hbusy hend
  · exact absurd (congrArg List.head? hin) hreset

/-! ### The order of the phases -/

theorem ChannelEffect.phase_step (h : ChannelEffect s t) :
    t.phase = s.phase ∨ t.phase = .idle ∨ t.phase ∈ s.phase.successors := by
  cases h with
  | nothing | notReady | waitTick | settleTick => exact .inl rfl
  | released | timedOut | notAcked | answered => exact .inr (.inl rfl)
  | startWait hp => obtain hp | hp := hp <;> simp [hp, Phase.successors]
  | woken hp | sentRelease hp | readySettle hp | readyNoSettle hp | readyResp hp | settled hp | acked _ hp
  | answeredRelease _ hp => simp [hp, Phase.successors, enterReadAck]

/-- Settles O45: each effect of the sequencer is a row of the table, and reset leads to IDLE. -/
theorem phasesFollowTheTable : Obligations.PhasesFollowTheTable := by
  intro s t _ hbusy hstep
  obtain ⟨_, _, _, _, rfl⟩ | ⟨rest, hch⟩ | ⟨rest, -, rfl⟩ := step_of_busy hbusy hstep
  · exact .inl rfl
  · exact hch.phase_step
  · exact .inr (.inl rfl)

/-! ### The ticks an exchange counts -/

theorem tickBudget_of_idle (h : s.phase = .idle) : s.tickBudget = 0 := by
  rw [State.tickBudget, h]

theorem tickBudget_of_settle (h : s.phase = .settle) :
    s.tickBudget = (s.settleTicks.toNat - s.settleCnt.toNat) + (s.waitLimit - 1) := by
  rw [State.tickBudget, h]

theorem tickBudget_of_readAck (h : s.phase = .readAck) : s.tickBudget = s.waitLimit - 1 := by
  rw [State.tickBudget, h]

theorem waitBudget_of_due (h : s.sampleDue = true) : s.waitBudget = s.waitLimit - 1 - s.pollCount.toNat :=
  if_pos h

theorem waitBudget_of_not_due (h : s.sampleDue = false) : s.waitBudget = s.waitLimit - s.pollCount.toNat :=
  if_neg (Bool.eq_false_iff.mp h)

/-- A sample that leaves the wait going makes room for the tick to come. -/
theorem State.Inv.takeSample_waitBudget (h : s.Inv) (hw : s.phase.isWait = true) (hdue : s.sampleDue = true) :
    (takeSample s).waitBudget = s.waitBudget := by
  have hcount : (takeSample s).pollCount.toNat = s.pollCount.toNat + 1 := h.countSample_toNat hw
  rw [waitBudget_of_due hdue, waitBudget_of_not_due (s := takeSample s) rfl, hcount, Nat.add_comm, ← Nat.sub_sub]
  rfl

/-- A tick that makes a sample due is one of those the wait has left (R88). -/
theorem State.Inv.setSampleDue_waitBudget (h : s.Inv) (hw : s.phase.isWait = true) (hdue : s.sampleDue = false) :
    (setSampleDue true s).waitBudget + 1 = s.waitBudget := by
  have hlt := h.wait_poll hw
  rw [waitBudget_of_not_due hdue, waitBudget_of_due (s := setSampleDue true s) rfl, setSampleDue_waitLimit,
    setSampleDue_pollCount]
  omega

theorem State.Inv.setSampleDue_waitBudget_le (h : s.Inv) (hw : s.phase.isWait = true) :
    (setSampleDue true s).waitBudget ≤ s.waitBudget := by
  cases hdue : s.sampleDue with
  | true => rw [setSampleDue_of_due hdue]
  | false => exact (h.setSampleDue_waitBudget hw hdue).symm ▸ Nat.le_succ _

/-- The ticks left for what follows the current wait: SETTLE and the second wait, or nothing. -/
def State.afterWait (s : State) : Nat :=
  if s.phase = .wait1 then s.settleTicks.toNat + (s.waitLimit - 1) else 0

theorem tickBudget_of_wait (hw : s.phase.isWait = true) : s.tickBudget = s.waitBudget + s.afterWait := by
  obtain hp | hp := (Phase.isWait_iff _).mp hw <;> simp [State.tickBudget, State.afterWait, hp, Nat.add_assoc]

/-- No effect of the sequencer adds to the ticks left (R98). -/
theorem ChannelEffect.tickBudget_le (h : ChannelEffect s t) (hinv : s.Inv) : t.tickBudget ≤ s.tickBudget := by
  cases h with
  | nothing => exact le_rfl
  | released | timedOut | notAcked | answered => exact (tickBudget_of_idle rfl).trans_le (Nat.zero_le _)
  | woken hp | sentRelease hp => simp [State.tickBudget, hp]
  | startWait hp => obtain hp | hp := hp <;> simp [State.tickBudget, State.waitBudget, hp]
  | readySettle hp => simp [State.tickBudget, hp, takeSample]
  | readyNoSettle hp => simp [State.tickBudget, hp, takeSample, enterReadAck]
  | readyResp hp => simp [State.tickBudget, hp]
  | notReady hp hdue =>
    rw [tickBudget_of_wait (s := takeSample s) hp, tickBudget_of_wait hp, hinv.takeSample_waitBudget hp hdue]
    exact le_rfl
  | waitTick hp =>
    rw [tickBudget_of_wait (s := setSampleDue true s) hp, tickBudget_of_wait hp]
    exact Nat.add_le_add_right (hinv.setSampleDue_waitBudget_le hp) s.afterWait
  | settled hp => simp [State.tickBudget, hp, enterReadAck]
  | settleTick hp =>
    rw [tickBudget_of_settle (s := countSettle s) hp, tickBudget_of_settle hp,
      countSettle_toNat (hinv.settle_count hp), countSettle_settleTicks, countSettle_waitLimit]
    omega
  | acked d hp => simp [State.tickBudget, State.waitBudget, hp, matchAck]
  | answeredRelease d hp => simp [State.tickBudget, hp]

/-- A tick that the sequencer counts is one of those left (R98). -/
theorem State.Inv.tickStep_tickBudget (h : s.Inv) (hcounting : s.counting = true) :
    (tickStep s).tickBudget + 1 = s.tickBudget := by
  simp only [State.counting, Bool.or_eq_true, Bool.and_eq_true, Bool.not_eq_true', beq_iff_eq] at hcounting
  obtain ⟨hw, hdue⟩ | hp := hcounting
  · rw [tickStep_of_wait hw, tickBudget_of_wait (s := setSampleDue true s) hw, tickBudget_of_wait hw,
      ← h.setSampleDue_waitBudget hw hdue]
    exact Nat.add_right_comm _ s.afterWait 1
  · have hlt := h.settle_count hp
    rw [tickStep_of_settle hp, tickBudget_of_settle hp]
    obtain hlast | hbelow := (Nat.succ_le_of_lt hlt).eq_or_lt
    · rw [settleTick_of_last hlt hlast.ge, tickBudget_of_readAck rfl]
      show s.waitLimit - 1 + 1 = _
      omega
    · rw [settleTick_of_lt hbelow, tickBudget_of_settle (s := countSettle s) hp, countSettle_toNat hlt,
        countSettle_settleTicks, countSettle_waitLimit]
      omega

theorem tickCounts_iff : s.tickCounts = true ↔ (∃ rest, s.inputs = .tick :: rest) ∧ s.counting = true := by
  unfold State.tickCounts
  split <;> simp_all

/-- Each step of an exchange in flight uses the ticks it counts (R98). -/
theorem State.Inv.step_tickBudget (hinv : s.Inv) (hbusy : s.busy = true) (hstep : step s = .next t) :
    (if s.tickCounts then 1 else 0) + t.tickBudget ≤ s.tickBudget := by
  by_cases hcounts : s.tickCounts = true
  · obtain ⟨⟨rest, hin⟩, hcounting⟩ := tickCounts_iff.mp hcounts
    cases (step_tick hin).symm.trans hstep
    have hrest : State.Inv { s with inputs := rest } := { hinv with }
    rw [if_pos hcounts, Nat.add_comm, hrest.tickStep_tickBudget hcounting]
    exact le_rfl
  · rw [if_neg hcounts, Nat.zero_add]
    obtain ⟨_, _, _, _, rfl⟩ | ⟨rest, hch⟩ | ⟨rest, -, rfl⟩ := step_of_busy hbusy hstep
    · exact le_rfl
    · exact hch.tickBudget_le { hinv with }
    · exact (tickBudget_of_idle rfl).trans_le (Nat.zero_le _)

theorem ticksCounted_le_tickBudget (k : Nat) (s : State) (hinv : s.Inv) : ticksCounted k s ≤ s.tickBudget := by
  induction k generalizing s with
  | zero => exact Nat.zero_le _
  | succ k ih =>
    by_cases hbusy : s.busy = true
    · rw [ticksCounted, if_pos hbusy]
      split
      · rename_i t hstep
        exact (Nat.add_le_add_left (ih t (stepKeepsSoundness s t hinv hstep)) _).trans
          (hinv.step_tickBudget hbusy hstep)
      · exact Nat.zero_le _
    · rw [ticksCounted, if_neg hbusy]
      exact Nat.zero_le _

/-- At its acceptance an EXCHANGE has the whole of R98's bound, or is over. -/
theorem runExchange_tickBudget_le (s : State) :
    (runExchange s).tickBudget ≤ (s.waitLimit - 1) + s.settleTicks.toNat + (s.waitLimit - 1) := by
  unfold runExchange
  split_ifs
  · simp [State.tickBudget]
  · exact (tickBudget_of_idle rfl).trans_le (Nat.zero_le _)

/-- Settles O48: every step uses the ticks it counts, so a run counts at most those left at its start. -/
theorem exchangeTickBound : Obligations.ExchangeTickBound := by
  refine ⟨ticksCounted_le_tickBudget, fun k s t hinv hidle hexec => ?_⟩
  cases (hostCommand_of_idle hidle).symm.trans hexec
  have hdue : s.sampleDue = false := hinv.not_due (hinv.phase_of_idle hidle) rfl
  have hsound : (runExchange (beginCommand 0x05#8 s)).Inv :=
    runExchange_inv (s := beginCommand 0x05#8 s) { hinv with } rfl rfl hdue
  exact (ticksCounted_le_tickBudget k _ hsound).trans (runExchange_tickBudget_le (beginCommand 0x05#8 s))

end Sys2Proof.Machine
end

section
/-! A plain WR (O4) and a WR of a reserved command code (O21), both while BUSY = 0. What a register write does is said
register by register, and then of the address that names the register. -/

namespace Sys2Proof.Machine

/-! ### The write of one register -/

/-- What a register reads as after it is written: counts clamp, CTRL keeps bit 0, any other writable register takes the
byte, and the rest stay (R18, R101). CMD is left out, since its write is a command. -/
theorem regByte_writeReg_self {r : Reg} (hr : r ≠ .cmd) (v : Byte) (s : State) :
    (writeReg r v s).regByte r =
      if r = .ackCount then clampByte v 7
      else if r = .rxCount then clampByte v 64
      else if r = .ctrl then v &&& 0x01#8
      else if r.writable then v
      else s.regByte r := by
  cases r with
  | cmd => exact absurd rfl hr
  | ctrl => exact flagBit_getLsbD_zero v
  | pollLimitLo => exact setLow_low _ _
  | pollLimitHi => exact setHigh_high _ _
  | inBuf i | ackBuf i | rxBuf i => exact Vector.getElem_set_self _
  | _ => rfl

/-- A store into a buffer leaves its other bytes. -/
theorem getElem_set_of_ne {n : Nat} {i j : Fin n} (h : j ≠ i) (v : Byte) (buf : Vector Byte n) :
    (buf.set i v)[j] = buf[j] :=
  Vector.getElem_set_ne i.isLt j.isLt (Fin.val_ne_of_ne h.symm)

/-- The write of a register leaves every other one, the other half of POLL_LIMIT included. -/
theorem regByte_writeReg_of_ne {r q : Reg} (h : q ≠ r) (v : Byte) (s : State) :
    (writeReg r v s).regByte q = s.regByte q := by
  cases r with
  | inLen | ackCount | rxCount | settleTicks | ctrl => cases q <;> trivial
  | pollLimitLo =>
    cases q with
    | pollLimitLo => exact absurd rfl h
    | pollLimitHi => exact setLow_high _ _
    | _ => rfl
  | pollLimitHi =>
    cases q with
    | pollLimitLo => exact setHigh_low _ _
    | pollLimitHi => exact absurd rfl h
    | _ => rfl
  | inBuf i =>
    cases q with
    | inBuf j => exact getElem_set_of_ne (mt (congrArg Reg.inBuf) h) v _
    | _ => rfl
  | ackBuf i =>
    cases q with
    | ackBuf j => exact getElem_set_of_ne (mt (congrArg Reg.ackBuf) h) v _
    | _ => rfl
  | rxBuf i =>
    cases q with
    | rxBuf j => exact getElem_set_of_ne (mt (congrArg Reg.rxBuf) h) v _
    | _ => rfl
  | _ => rfl

theorem writeReg_of_not_writable {r : Reg} (h : r.writable = false) (v : Byte) (s : State) : writeReg r v s = s := by
  cases r <;> trivial

theorem writeReg_sameHidden (r : Reg) (v : Byte) (s : State) : SameHidden s (writeReg r v s) :=
  ⟨writeReg_req r v s, writeReg_sampleDue r v s, writeReg_settleCnt r v s⟩

theorem writeReg_sameOutside (r : Reg) (v : Byte) (s : State) : SameOutside s (writeReg r v s) := by
  cases r <;> exact ⟨rfl, rfl, rfl, rfl, rfl⟩

/-! ### The write at an address -/

theorem regAt_eq_iff {a b : Addr} (hb : regAt b ≠ .reserved) : regAt a = regAt b ↔ a = b :=
  ⟨fun h => regAt_injective h hb, congrArg regAt⟩

/-- A WR at an address other than CMD, while BUSY = 0, is a register write, which an address that is not writable
ignores (R18, R101). -/
theorem execWr_of_idle {a : Addr} {s : State} (ha : a ≠ 0#9) (hidle : s.busy = false) (v : Byte) :
    execWr a v s = .next (writeReg (regAt a) v s) := by
  rw [execWr_of_ne_zero ha, hidle]
  cases hw : writableAddr a.toNat
  · rw [writeReg_of_not_writable ((regAt_writable a).trans hw)]; rfl
  · rfl

theorem writeReg_sameBytes (a : Addr) (v : Byte) (s : State) :
    SameBytesExcept [a.toNat] s (writeReg (regAt a) v s) := fun b hb => by
  by_cases hreserved : regAt b = .reserved
  · rw [State.peek, State.peek, hreserved]; rfl
  · have hne : b ≠ a := fun e => hb (List.mem_singleton.mpr (congrArg BitVec.toNat e))
    have hreg : regAt b ≠ regAt a := fun e => hne ((regAt_eq_iff hreserved).mp e.symm).symm
    exact regByte_writeReg_of_ne hreg v s

/-- The byte an address reads as after it is written, with the three registers that change it told by their address. -/
theorem peek_writeReg_self {a : Addr} (ha : a ≠ 0#9) (v : Byte) (s : State) :
    (writeReg (regAt a) v s).peek a =
      if a = 0x008#9 then clampByte v 7
      else if a = 0x00A#9 then clampByte v 64
      else if a = 0x013#9 then v &&& 0x01#8
      else if writableAddr a.toNat then v
      else s.peek a := by
  have hack : regAt a = .ackCount ↔ a = 0x008#9 := regAt_eq_iff (b := 0x008#9) (by decide)
  have hrx : regAt a = .rxCount ↔ a = 0x00A#9 := regAt_eq_iff (b := 0x00A#9) (by decide)
  have hctrl : regAt a = .ctrl ↔ a = 0x013#9 := regAt_eq_iff (b := 0x013#9) (by decide)
  have hself := regByte_writeReg_self (mt (regAt_eq_cmd a).mp ha) v s
  simpa only [hack, hrx, hctrl, regAt_writable, State.peek] using hself

/-- Settles O4: a plain WR while BUSY = 0 writes the register at its address and nothing else. -/
theorem wrStoresOneRegister : Obligations.WrStoresOneRegister := fun a v s hidle ha =>
  ⟨writeReg (regAt a) v s, execWr_of_idle ha hidle v, peek_writeReg_self ha v s, writeReg_sameBytes a v s,
    writeReg_sameHidden _ v s, writeReg_sameOutside _ v s⟩

/-! ### A reserved command code -/

/-- The word of a command is its byte with W set, the address of CMD being 0 (R60). -/
theorem writeWord_cmd (v : Byte) : writeWord 0#9 v = 0x20000#18 ||| v.setWidth 18 := rfl

/-- Settles O21: the word is a WR to CMD of a byte that names no command, and the accepted code stores nothing before
its finish. -/
theorem badCmdCommand : Obligations.BadCmdCommand := by
  intro code hcode
  refine ⟨?_, fun s hbusy hidle => ⟨runBadCmd (beginCommand code s), hostCommand_of_idle hbusy, ?_⟩⟩
  · rw [← writeWord_cmd, decode_writeWord_cmd, decodeCommand_of_reserved hcode]
  · have hrep := refused_reported code .badCmd hidle
    exact ⟨hrep.cmd, hrep.status, hrep.code, hrep.phase, hrep.endPhase, hrep.bytes, hrep.req, hrep.sampleDue,
      hrep.settleCnt, hrep.outside⟩

end Sys2Proof.Machine
end

section
/-! What the block makes of the bytes it carries: the twelve wire instructions complete one Send alike (O33), and the
acceptance of EXCHANGE does not look at its payload (O34). -/

namespace Sys2Proof.Machine

variable {s : State}

/-! ### The completion of a carried frame -/

theorem carryFrame_of_send {p : List Byte} (hp : s.phase = .send) (hreq : s.req = .send (encodeFrame p)) :
    carryFrame p s = .next (afterSend s) :=
  calc carryFrame p s
      _ = completeSend s := carryFrame_of_req hreq
      _ = sendStep s := (sendStep_eq s).symm
      _ = .next (afterSend s) := sendStep_of_phase hp hreq

theorem carryFrame_of_req_ne {p : List Byte} (hreq : s.req ≠ .send (encodeFrame p)) :
    carryFrame p s = .refused .frameNotOnChannel :=
  if_neg hreq

/-- Settles O33: each of the twelve means `carryFrame` of its payload, and nothing else. -/
theorem chipOpcodesAreCarriedAlike : Obligations.ChipOpcodesAreCarriedAlike := by
  intro tg args ip hip s
  have hexec : exec ip.1 s = carryFrame ip.2 s := by
    simp only [List.mem_cons, List.not_mem_nil, or_false] at hip
    obtain rfl | rfl | rfl | rfl | rfl | rfl | rfl | rfl | rfl | rfl | rfl | rfl := hip <;> rfl
  rw [hexec]
  exact ⟨carryFrame_of_send, carryFrame_of_req_ne⟩

/-! ### EXCHANGE over other bytes in IN_BUF -/

/-- The frame of other bytes has the same length, so TX_LEN does not see them (R71, R76). -/
theorem storeFrame_with_inBuf (hlen : s.frameLengthOk = true) (buf : Vector Byte 64) :
    storeFrame { s with inBuf := buf } =
      { storeFrame s with inBuf := buf, txBuf := (storeFrame { s with inBuf := buf }).txBuf } := by
  obtain ⟨-, -, -, hn, -⟩ := storeFrame_frame hlen
  obtain ⟨-, -, -, hn', -⟩ := storeFrame_frame (s := { s with inBuf := buf }) hlen
  have htx : (storeFrame { s with inBuf := buf }).txLen = (storeFrame s).txLen :=
    BitVec.eq_of_toNat_eq (hn'.trans hn.symm)
  dsimp only
  rw [← htx]
  rfl

/-- IN_LEN decides what EXCHANGE does, and only the stored frame depends on IN_BUF (R82). -/
theorem runExchange_with_inBuf (s : State) (buf : Vector Byte 64) :
    runExchange { s with inBuf := buf } =
      { runExchange s with inBuf := buf, txBuf := (runExchange { s with inBuf := buf }).txBuf } := by
  by_cases hlen : s.frameLengthOk = true
  · rw [runExchange_of_frameLengthOk hlen, runExchange_of_frameLengthOk (s := { s with inBuf := buf }) hlen]
    exact congrArg startExchange (storeFrame_with_inBuf hlen buf)
  · have hrun : runExchange s = finish .badLength s := if_neg hlen
    have hrun' : runExchange { s with inBuf := buf } = finish .badLength { s with inBuf := buf } := if_neg hlen
    rw [hrun, hrun']
    rfl

/-- Settles O34: EXCHANGE is dropped while BUSY = 1, and accepted it is `runExchange_with_inBuf`. -/
theorem exchangeIgnoresPayloadBytes : Obligations.ExchangeIgnoresPayloadBytes := by
  intro s buf
  by_cases hbusy : s.busy = true
  · exact ⟨rejectWrite s, _, hostCommand_of_busy hbusy, hostCommand_of_busy (s := { s with inBuf := buf }) hbusy, rfl⟩
  · have hidle : s.busy = false := Bool.eq_false_iff.mpr hbusy
    exact ⟨runExchange (beginCommand 0x05#8 s), _, hostCommand_of_idle hidle,
      hostCommand_of_idle (s := { s with inBuf := buf }) hidle, runExchange_with_inBuf (beginCommand 0x05#8 s) buf⟩

end Sys2Proof.Machine
end

section
/-! The completions the channel may not give (R106, R123): one whose kind does not match REQ, and a Recv with too many
bytes (O31). -/

namespace Sys2Proof.Machine

variable {s : State} {d : List Byte}

/-! ### A completion that does not match REQ -/

theorem completeWake_of_req_ne (hreq : s.req ≠ .wake) : completeWake s = .refused .completionMismatch :=
  if_neg fun h => hreq h.2

theorem Req.isSend_iff {r : Req} : r.isSend = true ↔ ∃ f, r = .send f := by
  cases r <;> simp [Req.isSend]

theorem sendStep_of_req_ne (hreq : ∀ f, s.req ≠ .send f) : sendStep s = .refused .completionMismatch := by
  have hsend : ¬ s.req.isSend = true := fun h =>
    let ⟨f, hf⟩ := Req.isSend_iff.mp h
    hreq f hf
  exact (sendStep_eq s).trans (if_neg fun h => hsend h.2)

theorem completeRelease_of_req_ne (hreq : s.req ≠ .release) :
    completeRelease s = .refused .completionMismatch := by
  rw [completeRelease, if_neg fun h => hreq h.2, if_neg fun h => hreq h.2]

theorem completeRecv_of_req_ne (hack : s.req ≠ .recv7) (hresp : s.req ≠ .recv64) :
    completeRecv d s = .refused .completionMismatch := by
  rw [completeRecv, if_neg fun h => hack h.2, if_neg fun h => hresp h.2]

/-! ### A Recv with more bytes than were asked for -/

theorem completeRecv_of_readAck_of_lt (hp : s.phase = .readAck) (hreq : s.req = .recv7) (hd : 7 < d.length) :
    completeRecv d s = .refused .recvTooLong := by
  rw [completeRecv, if_pos ⟨hp, hreq⟩]
  exact if_neg (Nat.not_le.mpr hd)

theorem completeRecv_of_readResp_of_lt (hp : s.phase = .readResp) (hreq : s.req = .recv64) (hd : 64 < d.length) :
    completeRecv d s = .refused .recvTooLong := by
  rw [completeRecv, if_neg (by simp [hp]), if_pos ⟨hp, hreq⟩]
  exact if_neg (Nat.not_le.mpr hd)

/-- Settles O31: the completion at the head is taken (`step_cons`), and each kind has its refusals. -/
theorem mismatchedCompletionRefused : Obligations.MismatchedCompletionRefused := by
  intro s rest
  refine ⟨fun hin hreq => ?wake, fun hin hreq => ?send, fun hin hreq => ?release, fun d hin hack hresp => ?recv,
    fun d hin hp hreq hd => ?ackTooLong, fun d hin hp hreq hd => ?respTooLong⟩ <;> rw [step_cons hin]
  case wake => exact completeWake_of_req_ne (s := { s with inputs := rest }) hreq
  case send => exact sendStep_of_req_ne (s := { s with inputs := rest }) hreq
  case release => exact completeRelease_of_req_ne (s := { s with inputs := rest }) hreq
  case recv => exact completeRecv_of_req_ne (s := { s with inputs := rest }) hack hresp
  case ackTooLong => exact completeRecv_of_readAck_of_lt (s := { s with inputs := rest }) hp hreq hd
  case respTooLong => exact completeRecv_of_readResp_of_lt (s := { s with inputs := rest }) hp hreq hd

end Sys2Proof.Machine
end

section
/-! Reset: the value it leaves in every piece of state, what the event does to a running machine, and that a reset
machine is sound (O40 to O42; R140, R141). -/

namespace Sys2Proof.Machine

variable (p : Params) (n : Nat) (draw : Nat → Byte)

/-! ### The bytes a host reads after reset (R140) -/

/-- The results, the status and the lengths all read 0x00. -/
theorem resetWith_peekRange_zero :
    (State.resetWith p n draw).peekRange 0x000 16 = List.replicate 16 0x00#8 := by
  have hreserved : (State.resetWith p n draw).peek 0x00F#9 = 0x00#8 := peek_reserved _ (by decide)
  simp [State.peekRange, List.range_succ, List.replicate, State.statusByte, flagBit, Completion.toByte, Phase.toByte,
    AckResult.toByte, AckResult.clear, RespFlags.toByte, RespFlags.clear, hreserved]

theorem resetWith_ctrl :
    (State.resetWith p n draw).peek 0x013#9 = if p.needsRelease then 0x01#8 else 0x00#8 := by
  rw [peek_ctrl, resetWith_endTxnEn]
  rfl

theorem resetWith_pollCount_bytes : (State.resetWith p n draw).peekRange 0x014 2 = [0x00#8, 0x00#8] := by
  simp [State.peekRange, List.range_succ]

/-- A register at or above 0x020 is a buffer byte, and holds the draw made for its host address (R42). -/
theorem resetWith_regByte_of_buffer {r : Reg} (hlow : 0x020 ≤ r.addr) (hr : r ≠ .reserved) :
    (State.resetWith p n draw).regByte r = draw r.addr := by
  cases r
  case inBuf | txBuf | ackBuf | rxBuf | payload => simp [State.regByte, Reg.addr]
  case reserved => exact absurd rfl hr
  all_goals exact absurd hlow (by decide)

/-- Each buffer byte reads as its own draw (R42). -/
theorem resetWith_peek_of_buffer {a : Addr} (hlow : 0x020 ≤ a.toNat) (hreserved : reservedAddr a.toNat = false) :
    (State.resetWith p n draw).peek a = draw a.toNat := by
  have hr : regAt a ≠ .reserved := fun h => Bool.eq_false_iff.mp hreserved ((regAt_reserved a).mp h)
  have haddr := regAt_addr a hr
  rw [State.peek, resetWith_regByte_of_buffer p n draw (haddr ▸ hlow) hr, haddr]

/-- Settles O40: the registers below 0x020 one by one, the buffers by `resetWith_peek_of_buffer`. -/
theorem resetValues : Obligations.ResetValues := by
  rintro p n draw s rfl
  exact ⟨resetWith_peekRange_zero p n draw, halves16 p.pollLimitReset, rfl, resetWith_ctrl p n draw,
    resetWith_pollCount_bytes p n draw, fun _ => resetWith_peek_of_buffer p n draw, rfl, rfl, rfl, rfl, rfl⟩

/-! ### Reset as an event, and soundness -/

/-- Settles O41: the turn at the head is taken (`step_cons`), and reset's turn is `resetNow`. -/
theorem resetEvent : Obligations.ResetEvent := by
  intro s rest hin
  rw [step_cons hin]
  rfl

theorem resetWith_inv : (State.resetWith p n draw).Inv :=
  (resetWith_resultsOk p n draw).idle_inv rfl rfl rfl rfl rfl

/-- Settles O42: the reset state is idle with nothing outstanding, and its results are clear. -/
theorem resetIsSound : Obligations.ResetIsSound :=
  ⟨resetWith_inv, resetWith_inv Params.vectors 0 (Config.resetByte 0)⟩

end Sys2Proof.Machine
end
